-- ==== Sys2Proof/Word.lean ====
section
/-! DEFINITION. The word types of the lkollar/chip8 engine (spec/00_scope.md R5, R7, R8). -/

namespace Sys2Proof

/-- An 8-bit register or memory byte (R8). -/
abbrev Byte := BitVec 8

/-- A 16-bit register, stack entry or instruction word (R5). -/
abbrev Word := BitVec 16

/-- A 4-bit field: a nibble of an instruction word, a row count, a key code (R5, R81). -/
abbrev Nibble := BitVec 4

/-- The 12-bit address field NNN (R81). -/
abbrev Addr12 := BitVec 12

/-- The number of a V register, 0 to 15 (R9, R21). -/
abbrev RegIdx := Fin 16

end Sys2Proof
end

