-- ==== Sys2Proof/Config.lean ====
section
/-! DEFINITION. The implementation parameters of spec/00_scope.md R6, and the free values. -/

namespace Sys2Proof

/-- `STACK_DEPTH` (R6): 15 or 16 entries. -/
inductive StackDepth where
  | fifteen
  | sixteen
  deriving DecidableEq, Repr

/-- The number a `STACK_DEPTH` stands for. -/
def StackDepth.toNat : StackDepth → Nat
  | .fifteen => 15
  | .sixteen => 16

/-- `SHIFT_SOURCE` (R6): the register `SHR` and `SHL` shift. -/
inductive ShiftSource where
  | vx
  | vy
  deriving DecidableEq, Repr

/-- `KEY_WAIT` (R6): what `LD Vx,K` does. -/
inductive KeyWait where
  | nop
  | block
  deriving DecidableEq, Repr

/-- `RESET_POLICY` (R6): the values of the open state at construction. -/
inductive ResetPolicy where
  | zero
  | arbitrary
  deriving DecidableEq, Repr

/-- The parameters of R6, fixed for one machine (R20). DESIGN CHOICE (log 1), safe: a machine carries its
parameters as plain data, so that a claim about every state is a claim for every value of them. -/
structure Config where
  stackDepth  : StackDepth
  shiftSource : ShiftSource
  /-- `FLAG_LAST`. -/
  flagLast    : Bool
  keyWait     : KeyWait
  /-- `STRICT_5_9`. -/
  strict59    : Bool
  resetPolicy : ResetPolicy
  /-- `FONT`: the bytes at 0x000 to 0x04F after construction. -/
  font        : Vector Byte 80
  deriving DecidableEq, Repr

/-- The `RAND` port (R6, spec/44_index_random.md R182): the byte of the n-th draw. A FREE VALUE (log 5),
safe: nothing constrains it. -/
opaque Config.randDraw : Nat → Byte

end Sys2Proof
end

