-- ==== Sys2Proof/Machine/Defaults.lean ====
section
/-! DEFINITION. The fixed sizes of spec/00_scope.md R5, the default parameters of R6, and what memory holds at
construction (spec/10_state.md R38, R40). -/

namespace Sys2Proof.Machine

/-- `MEM_SIZE` (R5). -/
def memSize : Nat := 4096

/-- `PROG_BASE` (R5). -/
def progBase : Nat := 0x200

/-- The size of `FONT`: 16 glyphs of 5 bytes (R5). -/
def fontSize : Nat := 80

/-- The largest image `LOAD` takes: 4096 - 0x200 = 3584 bytes (spec/70_reset_and_hazards.md R281). -/
def maxImage : Nat := memSize - progBase

/-- The default `FONT` (R40). The spec marks its bytes as general knowledge (log 3), unsafe for a claim about drawn glyphs. -/
def defaultFont : Vector Byte 80 :=
  #v[0xF0, 0x90, 0x90, 0x90, 0xF0,
     0x20, 0x60, 0x20, 0x20, 0x70,
     0xF0, 0x10, 0xF0, 0x80, 0xF0,
     0xF0, 0x10, 0xF0, 0x10, 0xF0,
     0x90, 0x90, 0xF0, 0x10, 0x10,
     0xF0, 0x80, 0xF0, 0x10, 0xF0,
     0xF0, 0x80, 0xF0, 0x90, 0xF0,
     0xF0, 0x10, 0x20, 0x40, 0x40,
     0xF0, 0x90, 0xF0, 0x90, 0xF0,
     0xF0, 0x90, 0xF0, 0x10, 0xF0,
     0xF0, 0x90, 0xF0, 0x90, 0x90,
     0xE0, 0x90, 0xE0, 0x90, 0xE0,
     0xF0, 0x80, 0x80, 0x80, 0xF0,
     0xE0, 0x90, 0x90, 0x90, 0xE0,
     0xF0, 0x80, 0xF0, 0x80, 0xF0,
     0xF0, 0x80, 0xF0, 0x80, 0x80]

/-- The defaults of R6. -/
def defaultConfig : Config where
  stackDepth := .sixteen
  shiftSource := .vx
  flagLast := true
  keyWait := .nop
  strict59 := false
  resetPolicy := .zero
  font := defaultFont

/-- What an address that memory does not list reads as: the reset contents of R38, the default `FONT` at 0x000 to
0x04F and 0 elsewhere. A machine built with another `FONT` or other draws lists the bytes that differ (log 4). -/
def unlistedByte (a : Nat) : Byte := defaultFont.toList.getD a 0

end Sys2Proof.Machine
end

