-- ==== Sys2Proof/Syntax.lean ====
section
/-! DEFINITION. The 35 instructions of spec/30_encoding.md R83, one constructor a row, in the table's order. -/

namespace Sys2Proof

/-- One instruction with its fields (R81, R82). Fields an instruction ignores are not kept; `SE Vx,Vy` and
`SNE Vx,Vy` ignore N (R86, log 11). -/
inductive Instr where
  /-- `SYS addr`, 0NNN (R110). -/
  | sys (nnn : Addr12)
  /-- `CLS`, 00E0 (R111). -/
  | cls
  /-- `RET`, 00EE (R112). -/
  | ret
  /-- `JP addr`, 1NNN (R113). -/
  | jp (nnn : Addr12)
  /-- `CALL addr`, 2NNN (R114). -/
  | call (nnn : Addr12)
  /-- `SE Vx,byte`, 3XNN (R130). -/
  | seByte (x : RegIdx) (nn : Byte)
  /-- `SNE Vx,byte`, 4XNN (R131). -/
  | sneByte (x : RegIdx) (nn : Byte)
  /-- `SE Vx,Vy`, 5XY0 (R132). -/
  | seReg (x y : RegIdx)
  /-- `LD Vx,byte`, 6XNN (R140). -/
  | ldByte (x : RegIdx) (nn : Byte)
  /-- `ADD Vx,byte`, 7XNN (R141). -/
  | addByte (x : RegIdx) (nn : Byte)
  /-- `LD Vx,Vy`, 8XY0 (R151). -/
  | ldReg (x y : RegIdx)
  /-- `OR Vx,Vy`, 8XY1 (R152). -/
  | orReg (x y : RegIdx)
  /-- `AND Vx,Vy`, 8XY2 (R153). -/
  | andReg (x y : RegIdx)
  /-- `XOR Vx,Vy`, 8XY3 (R154). -/
  | xorReg (x y : RegIdx)
  /-- `ADD Vx,Vy`, 8XY4 (R155). -/
  | addReg (x y : RegIdx)
  /-- `SUB Vx,Vy`, 8XY5 (R156). -/
  | sub (x y : RegIdx)
  /-- `SHR Vx,Vy{=Vx}`, 8XY6 (R157). -/
  | shr (x y : RegIdx)
  /-- `SUBN Vx,Vy`, 8XY7 (R158). -/
  | subn (x y : RegIdx)
  /-- `SHL Vx,Vy{=Vx}`, 8XYE (R159). -/
  | shl (x y : RegIdx)
  /-- `SNE Vx,Vy`, 9XY0 (R133). -/
  | sneReg (x y : RegIdx)
  /-- `LD I,addr`, ANNN (R180). -/
  | ldI (nnn : Addr12)
  /-- `JP V0,addr`, BNNN (R115). -/
  | jpV0 (nnn : Addr12)
  /-- `RND Vx,byte` (`LD Vx,rand&byte`), CXNN (R182). -/
  | rnd (x : RegIdx) (nn : Byte)
  /-- `DRW Vx,Vy,nibble`, DXYN (R195). -/
  | drw (x y : RegIdx) (n : Nibble)
  /-- `SKP Vx`, EX9E (R221). -/
  | skp (x : RegIdx)
  /-- `SKNP Vx`, EXA1 (R222). -/
  | sknp (x : RegIdx)
  /-- `LD Vx,DT`, FX07 (R230). -/
  | ldVxDt (x : RegIdx)
  /-- `LD Vx,K`, FX0A (R223). -/
  | ldVxK (x : RegIdx)
  /-- `LD DT,Vx`, FX15 (R231). -/
  | ldDtVx (x : RegIdx)
  /-- `LD ST,Vx`, FX18 (R232). -/
  | ldStVx (x : RegIdx)
  /-- `ADD I,Vx`, FX1E (R181). -/
  | addI (x : RegIdx)
  /-- `LD F,Vx`, FX29 (R233). -/
  | ldF (x : RegIdx)
  /-- `LD B,Vx`, FX33 (R234). -/
  | ldB (x : RegIdx)
  /-- `LD [I],Vx`, FX55 (R235). -/
  | stBlock (x : RegIdx)
  /-- `LD Vx,[I]`, FX65 (R236). -/
  | ldBlock (x : RegIdx)
  deriving DecidableEq, Repr

/-- Why a word or a run of bytes is no instruction. Every one of them but `truncated` is the spec's `DecodeError`
(R84, R87); `truncated` is a byte list too short to hold a word, which fetch never hands over (R80, R89). -/
inductive DecodeReject where
  /-- Family 0x8 with a low nibble outside 0 to 7 and E. -/
  | aluNibble
  /-- Family 0xE with a low byte other than 9E and A1. -/
  | keyByte
  /-- Family 0xF with a low byte outside its nine. -/
  | miscByte
  /-- 5XYN or 9XYN with N not 0, under `STRICT_5_9`. -/
  | compareNibble
  /-- Fewer than two bytes. -/
  | truncated
  deriving DecidableEq, Repr

/-- What the decoder answers: one instruction, or a rejection by name (R84). -/
inductive Decoded where
  | instr (i : Instr)
  | reject (r : DecodeReject)
  deriving DecidableEq, Repr

end Sys2Proof
end

