-- ==== Sys2Proof/WellFormed.lean ====
section
/-! DEFINITION. Which instructions have a word of their own. -/

namespace Sys2Proof

/-- The operand types carry every bound of spec/30_encoding.md R82. One check is left: 0x00E0 and 0x00EE are `CLS`
and `RET`, so no word stands for `SYS 0x0E0` or `SYS 0x0EE` (R85). -/
def Instr.wf : Instr → Bool
  | .sys nnn => nnn != 0x0E0#12 && nnn != 0x0EE#12
  | _ => true

end Sys2Proof
end

