-- ==== Sys2Proof/Decode.lean ====
section
/-! DEFINITION. The decoder of spec/30_encoding.md R84, total on all words and all byte lists, and the encoder read from
the same opcode map R83. The patterns are the spec's decision D2, unconfirmed by its source (log 10). -/

namespace Sys2Proof

/-- F, bits 15:12 (R81). -/
def fieldF (w : Word) : Nibble := w.extractLsb' 12 4

/-- X, bits 11:8 (R81). -/
def fieldX (w : Word) : RegIdx := Fin.ofNat 16 (w.extractLsb' 8 4).toNat

/-- Y, bits 7:4 (R81). -/
def fieldY (w : Word) : RegIdx := Fin.ofNat 16 (w.extractLsb' 4 4).toNat

/-- N, bits 3:0 (R81). -/
def fieldN (w : Word) : Nibble := w.extractLsb' 0 4

/-- NN, bits 7:0 (R81). -/
def fieldNN (w : Word) : Byte := w.extractLsb' 0 8

/-- NNN, bits 11:0 (R81). -/
def fieldNNN (w : Word) : Addr12 := w.extractLsb' 0 12

/-- Family 0x0 (R85): two words matched exactly, every other one `SYS`. -/
def decodeSystem (w : Word) : Decoded :=
  if w = 0x00E0#16 then .instr .cls
  else if w = 0x00EE#16 then .instr .ret
  else .instr (.sys (fieldNNN w))

/-- Families 0x5 and 0x9 (R86): N is ignored, unless `STRICT_5_9` rejects a nonzero one. -/
def decodeCompare (strict : Bool) (w : Word) (i : Instr) : Decoded :=
  if strict && fieldN w != 0#4 then .reject .compareNibble else .instr i

/-- Family 0x8 (R84, R87): N selects the operation. -/
def decodeAlu (w : Word) : Decoded :=
  let x := fieldX w
  let y := fieldY w
  match fieldN w with
  | 0x0#4 => .instr (.ldReg x y)
  | 0x1#4 => .instr (.orReg x y)
  | 0x2#4 => .instr (.andReg x y)
  | 0x3#4 => .instr (.xorReg x y)
  | 0x4#4 => .instr (.addReg x y)
  | 0x5#4 => .instr (.sub x y)
  | 0x6#4 => .instr (.shr x y)
  | 0x7#4 => .instr (.subn x y)
  | 0xE#4 => .instr (.shl x y)
  | _ => .reject .aluNibble

/-- Family 0xE (R84, R87): NN selects the key query. -/
def decodeKey (w : Word) : Decoded :=
  match fieldNN w with
  | 0x9E#8 => .instr (.skp (fieldX w))
  | 0xA1#8 => .instr (.sknp (fieldX w))
  | _ => .reject .keyByte

/-- Family 0xF (R84, R87): NN selects the operation. -/
def decodeMisc (w : Word) : Decoded :=
  let x := fieldX w
  match fieldNN w with
  | 0x07#8 => .instr (.ldVxDt x)
  | 0x0A#8 => .instr (.ldVxK x)
  | 0x15#8 => .instr (.ldDtVx x)
  | 0x18#8 => .instr (.ldStVx x)
  | 0x1E#8 => .instr (.addI x)
  | 0x29#8 => .instr (.ldF x)
  | 0x33#8 => .instr (.ldB x)
  | 0x55#8 => .instr (.stBlock x)
  | 0x65#8 => .instr (.ldBlock x)
  | _ => .reject .miscByte

/-- `Decode(w)` (R84), for either value of `STRICT_5_9`. The last arm is family 0xF, the one value left. -/
def decodeWord (strict : Bool) (w : Word) : Decoded :=
  match fieldF w with
  | 0x0#4 => decodeSystem w
  | 0x1#4 => .instr (.jp (fieldNNN w))
  | 0x2#4 => .instr (.call (fieldNNN w))
  | 0x3#4 => .instr (.seByte (fieldX w) (fieldNN w))
  | 0x4#4 => .instr (.sneByte (fieldX w) (fieldNN w))
  | 0x5#4 => decodeCompare strict w (.seReg (fieldX w) (fieldY w))
  | 0x6#4 => .instr (.ldByte (fieldX w) (fieldNN w))
  | 0x7#4 => .instr (.addByte (fieldX w) (fieldNN w))
  | 0x8#4 => decodeAlu w
  | 0x9#4 => decodeCompare strict w (.sneReg (fieldX w) (fieldY w))
  | 0xA#4 => .instr (.ldI (fieldNNN w))
  | 0xB#4 => .instr (.jpV0 (fieldNNN w))
  | 0xC#4 => .instr (.rnd (fieldX w) (fieldNN w))
  | 0xD#4 => .instr (.drw (fieldX w) (fieldY w) (fieldN w))
  | 0xE#4 => decodeKey w
  | _ => decodeMisc w

/-- The word two bytes form, the most significant first (R80, spec/20_memory.md R63). -/
def wordOfBytes (hi lo : Byte) : Word := hi.setWidth 16 <<< 8 ||| lo.setWidth 16

/-- The byte a word has at the lower address (spec/20_memory.md R63). -/
def highByte (w : Word) : Byte := w.extractLsb' 8 8

/-- The byte a word has at the higher address (spec/20_memory.md R63). -/
def lowByte (w : Word) : Byte := w.extractLsb' 0 8

/-- Decodes the first instruction of a byte list and gives the bytes after it; always two bytes (R80). -/
def decodeBytes (strict : Bool) : List Byte → Decoded × List Byte
  | hi :: lo :: rest => (decodeWord strict (wordOfBytes hi lo), rest)
  | short => (.reject .truncated, short)

/-- A word of the form FNNN (R81). -/
def wordNNN (f : Nibble) (nnn : Addr12) : Word := f.setWidth 16 <<< 12 ||| nnn.setWidth 16

/-- A word of the form FXNN (R81). -/
def wordXNN (f : Nibble) (x : RegIdx) (nn : Byte) : Word :=
  f.setWidth 16 <<< 12 ||| (BitVec.ofNat 4 x.val).setWidth 16 <<< 8 ||| nn.setWidth 16

/-- A word of the form FXYN (R81). -/
def wordXYN (f : Nibble) (x y : RegIdx) (n : Nibble) : Word :=
  f.setWidth 16 <<< 12 ||| (BitVec.ofNat 4 x.val).setWidth 16 <<< 8 ||| (BitVec.ofNat 4 y.val).setWidth 16 <<< 4
    ||| n.setWidth 16

/-- The word of an instruction, from the opcode map R83; an ignored N is 0. -/
def encode : Instr → Word
  | .sys nnn => wordNNN 0x0 nnn
  | .cls => 0x00E0#16
  | .ret => 0x00EE#16
  | .jp nnn => wordNNN 0x1 nnn
  | .call nnn => wordNNN 0x2 nnn
  | .seByte x nn => wordXNN 0x3 x nn
  | .sneByte x nn => wordXNN 0x4 x nn
  | .seReg x y => wordXYN 0x5 x y 0x0
  | .ldByte x nn => wordXNN 0x6 x nn
  | .addByte x nn => wordXNN 0x7 x nn
  | .ldReg x y => wordXYN 0x8 x y 0x0
  | .orReg x y => wordXYN 0x8 x y 0x1
  | .andReg x y => wordXYN 0x8 x y 0x2
  | .xorReg x y => wordXYN 0x8 x y 0x3
  | .addReg x y => wordXYN 0x8 x y 0x4
  | .sub x y => wordXYN 0x8 x y 0x5
  | .shr x y => wordXYN 0x8 x y 0x6
  | .subn x y => wordXYN 0x8 x y 0x7
  | .shl x y => wordXYN 0x8 x y 0xE
  | .sneReg x y => wordXYN 0x9 x y 0x0
  | .ldI nnn => wordNNN 0xA nnn
  | .jpV0 nnn => wordNNN 0xB nnn
  | .rnd x nn => wordXNN 0xC x nn
  | .drw x y n => wordXYN 0xD x y n
  | .skp x => wordXNN 0xE x 0x9E
  | .sknp x => wordXNN 0xE x 0xA1
  | .ldVxDt x => wordXNN 0xF x 0x07
  | .ldVxK x => wordXNN 0xF x 0x0A
  | .ldDtVx x => wordXNN 0xF x 0x15
  | .ldStVx x => wordXNN 0xF x 0x18
  | .addI x => wordXNN 0xF x 0x1E
  | .ldF x => wordXNN 0xF x 0x29
  | .ldB x => wordXNN 0xF x 0x33
  | .stBlock x => wordXNN 0xF x 0x55
  | .ldBlock x => wordXNN 0xF x 0x65

/-- The two bytes of an instruction as memory holds them, high byte first (spec/20_memory.md R63). -/
def encodeBytes (i : Instr) : List Byte := [highByte (encode i), lowByte (encode i)]

/-- The word whose bits, numbered as spec/opcode_table.json numbers them, are the low `nbits` bits of `w`. -/
def tableWord (nbits w : Nat) : Word := BitVec.ofNat 16 (w % 2 ^ nbits)

/-- What the decoder reads from the bytes of a table word, under the default parameters (log 13). -/
def decodeTableWord (nbits w : Nat) : Option Instr :=
  let word := tableWord nbits w
  match (decodeBytes Machine.defaultConfig.strict59 [highByte word, lowByte word]).1 with
  | .instr i => some i
  | .reject _ => none

/-- One row of the opcode map (R83): the words it covers are those with `w & mask = value`, less the excluded ones. -/
structure OpcodeRow where
  mask    : Word
  value   : Word
  exclude : List Word
  deriving DecidableEq, Repr

/-- Whether a row covers a word. -/
def OpcodeRow.covers (r : OpcodeRow) (w : Word) : Bool := (w &&& r.mask == r.value) && !r.exclude.contains w

/-- The 35 rows of R83 in order, with `STRICT_5_9` = false. -/
def opcodeRows : List OpcodeRow := [
  ⟨0xF000, 0x0000, [0x00E0, 0x00EE]⟩,
  ⟨0xFFFF, 0x00E0, []⟩,
  ⟨0xFFFF, 0x00EE, []⟩,
  ⟨0xF000, 0x1000, []⟩,
  ⟨0xF000, 0x2000, []⟩,
  ⟨0xF000, 0x3000, []⟩,
  ⟨0xF000, 0x4000, []⟩,
  ⟨0xF000, 0x5000, []⟩,
  ⟨0xF000, 0x6000, []⟩,
  ⟨0xF000, 0x7000, []⟩,
  ⟨0xF00F, 0x8000, []⟩,
  ⟨0xF00F, 0x8001, []⟩] ++ [
  ⟨0xF00F, 0x8002, []⟩,
  ⟨0xF00F, 0x8003, []⟩,
  ⟨0xF00F, 0x8004, []⟩,
  ⟨0xF00F, 0x8005, []⟩,
  ⟨0xF00F, 0x8006, []⟩,
  ⟨0xF00F, 0x8007, []⟩,
  ⟨0xF00F, 0x800E, []⟩,
  ⟨0xF000, 0x9000, []⟩,
  ⟨0xF000, 0xA000, []⟩,
  ⟨0xF000, 0xB000, []⟩,
  ⟨0xF000, 0xC000, []⟩,
  ⟨0xF000, 0xD000, []⟩] ++ [
  ⟨0xF0FF, 0xE09E, []⟩,
  ⟨0xF0FF, 0xE0A1, []⟩,
  ⟨0xF0FF, 0xF007, []⟩,
  ⟨0xF0FF, 0xF00A, []⟩,
  ⟨0xF0FF, 0xF015, []⟩,
  ⟨0xF0FF, 0xF018, []⟩,
  ⟨0xF0FF, 0xF01E, []⟩,
  ⟨0xF0FF, 0xF029, []⟩,
  ⟨0xF0FF, 0xF033, []⟩,
  ⟨0xF0FF, 0xF055, []⟩,
  ⟨0xF0FF, 0xF065, []⟩]

/-- The row of an instruction, counted from 0 in the order of R83. -/
def Instr.row : Instr → Nat
  | .sys .. => 0
  | .cls .. => 1
  | .ret .. => 2
  | .jp .. => 3
  | .call .. => 4
  | .seByte .. => 5
  | .sneByte .. => 6
  | .seReg .. => 7
  | .ldByte .. => 8
  | .addByte .. => 9
  | .ldReg .. => 10
  | .orReg .. => 11
  | .andReg .. => 12
  | .xorReg .. => 13
  | .addReg .. => 14
  | .sub .. => 15
  | .shr .. => 16
  | .subn .. => 17
  | .shl .. => 18
  | .sneReg .. => 19
  | .ldI .. => 20
  | .jpV0 .. => 21
  | .rnd .. => 22
  | .drw .. => 23
  | .skp .. => 24
  | .sknp .. => 25
  | .ldVxDt .. => 26
  | .ldVxK .. => 27
  | .ldDtVx .. => 28
  | .ldStVx .. => 29
  | .addI .. => 30
  | .ldF .. => 31
  | .ldB .. => 32
  | .stBlock .. => 33
  | .ldBlock .. => 34

end Sys2Proof
end

