-- ==== Sys2Proof/Machine/State.lean ====
section
/-! DEFINITION. The state record of spec/10_state.md R20 as plain data, the fault kinds of spec/60_exceptions.md R250,
and the state right after construction (R38). -/

namespace Sys2Proof.Machine

/-- `Mem` (R32): the bytes that differ from `unlistedByte`, addresses strictly rising (log 4). -/
abbrev Memory := List Host.Cell

/-- `FB` (R30): 32 rows of 64 pixels, on or off. -/
abbrev Framebuffer := Vector (Vector Bool 64) 32

/-- A fault kind with its recorded info (R250). A fault stops the machine. Each one is the spec's own, so it is safe. -/
inductive Fault where
  /-- Code 1: a cycle whose word is illegal (R84, R87), with PC and the word. Safe. -/
  | decodeError (pc word : Word)
  /-- Code 2: `CALL` with SP = `STACK_DEPTH` (R114), with PC. Safe. -/
  | stackOverflow (pc : Word)
  /-- Code 3: `RET` with SP = 0 (R112), with PC. Safe. -/
  | stackUnderflow (pc : Word)
  /-- Code 4: `LD F,Vx` with V[X] at or above 16 (R233), with PC and V[X]. Safe. -/
  | rangeError (pc : Word) (value : Byte)
  /-- Code 5: a fetch, `DRW`, `LD B,Vx`, `LD [I],Vx` or `LD Vx,[I]` that reaches an address at or above 4096
  (R65), with PC and the lowest such address. Safe. -/
  | memoryBounds (pc : Word) (addr : Nat)
  /-- Code 6: the answer of `LOAD` to an image longer than 3584 bytes (R264, R281), with its length. No cycle
  raises it. Safe. -/
  | loadError (len : Nat)
  deriving DecidableEq, Repr

/-- Why the model gives a step no meaning. -/
inductive Refusal where
  /-- An instruction the model has not reached. Raised by `exec` alone; no arm raises it now. Safe. -/
  | notModelled (mnemonic : String)
  /-- `CALL` or `RET` with SP above `STACK_DEPTH`, outside the range R26 gives SP, where no rule says what they do
  (log 8). No run reaches it: `State.Inv` excludes it. Safe. -/
  | stackPointerOutOfRange (pc : Word) (sp : Byte)
  deriving DecidableEq, Repr

/-- An event of `DISPLAY_OUT` (spec/60_exceptions.md R259). -/
inductive DisplayEvent where
  | displayClear
  | present (grid : Framebuffer)
  deriving DecidableEq, Repr

/-- What one `STEP` answers the host (R259, R90). `refused` is the model's own (see `Refusal`). -/
inductive StepResult where
  | ok
  | faulted (f : Fault)
  | refused (r : Refusal)
  deriving DecidableEq, Repr

/-- The state of one machine (R20), with its parameters `cfg` (R6), the event stream that has left `DISPLAY_OUT` and
the number of `RAND` bytes consumed (log 1, log 5, log 6). -/
structure State where
  /-- The parameters of this machine (R6, R20). -/
  cfg     : Config
  /-- V0 to VF (R21, R22). -/
  v       : Vector Byte 16
  /-- I (R24). -/
  ireg    : Word
  /-- PC (R25). -/
  pc      : Word
  /-- SP, the number of entries in use (R26). -/
  sp      : Byte
  /-- The return stack (R27), 16 entries for either `STACK_DEPTH` (log 9). -/
  stack   : Vector Word 16
  /-- DT (R28). -/
  dt      : Byte
  /-- ST (R29). -/
  st      : Byte
  /-- Mem (R32). -/
  mem     : Memory
  /-- FB (R30). -/
  fb      : Framebuffer
  /-- The pressed-key slot (R33). -/
  keySlot : Option Nibble
  /-- The latched fault (R34). -/
  fault   : Option Fault
  /-- The events emitted so far, oldest first (R259). -/
  events  : List DisplayEvent
  /-- How many `RAND` bytes have been consumed: the model's own counter (log 5). -/
  draws   : Nat
  deriving DecidableEq, Repr

/-- A framebuffer with every pixel 0. -/
def blankFramebuffer : Framebuffer := Vector.replicate 32 (Vector.replicate 64 false)

/-- The machine right after construction with the default parameters (R38, R280). The values the source leaves open
are those of `RESET_POLICY` = `ZERO` (log 2), unsafe. -/
def State.reset : State where
  cfg := defaultConfig
  v := Vector.replicate 16 0
  ireg := 0
  pc := 0x200
  sp := 0
  stack := Vector.replicate 16 0
  dt := 0
  st := 0
  mem := []
  fb := blankFramebuffer
  keySlot := none
  fault := none
  events := []
  draws := 0

end Sys2Proof.Machine
end

