-- ==== Sys2Proof/Machine/Ops.lean ====
section
/-! DEFINITION. The named operations over memory, registers, the program counter, the return stack, the random port,
the event stream, the timers and the fault latch. -/

namespace Sys2Proof.Machine

/-! ### Memory (spec/20_memory.md) -/

/-- `Mem[a]`: the listed byte, or what an unlisted address reads as. -/
def Memory.read : Memory → Nat → Byte
  | [], a => unlistedByte a
  | c :: rest, a => if c.1 = a then c.2 else Memory.read rest a

/-- Puts a cell in front of the first listed address above its own. -/
def Memory.insert (a : Nat) (b : Byte) : Memory → Memory
  | [] => [(a, b)]
  | c :: rest => if a < c.1 then (a, b) :: c :: rest else c :: Memory.insert a b rest

/-- The memory with no entry for `a`. -/
def Memory.erase (m : Memory) (a : Nat) : Memory := List.filter (fun c => c.1 != a) m

/-- `Mem[a] <- b`. A byte equal to what `a` reads as when unlisted is not listed (log 4). -/
def Memory.write (m : Memory) (a : Nat) (b : Byte) : Memory :=
  if b = unlistedByte a then Memory.erase m a else Memory.insert a b (Memory.erase m a)

/-- The `k` bytes from `a` up. -/
def Memory.readBytes (m : Memory) (a : Nat) : Nat → List Byte
  | 0 => []
  | k + 1 => Memory.read m a :: Memory.readBytes m (a + 1) k

/-- Writes the bytes of a list from `a` up, in order. -/
def Memory.writeBytes (m : Memory) (a : Nat) : List Byte → Memory
  | [] => m
  | b :: rest => Memory.writeBytes (Memory.write m a b) (a + 1) rest

/-- The canonical form: addresses of the address space, strictly rising, and no entry that repeats the unlisted
value. -/
abbrev Memory.wf (m : Memory) : Prop :=
  List.Pairwise (fun c d => c.1 < d.1) m ∧ ∀ c ∈ m, c.1 < memSize ∧ c.2 ≠ unlistedByte c.1

/-- `CheckRange(a, k)` (R69): the lowest address of the `k` from `a` up that does not exist, if any. -/
def checkRange (a : Nat) : Nat → Option Nat
  | 0 => none
  | k + 1 => if a ≥ memSize then some a else checkRange (a + 1) k

/-- `MemRead(a, 1)` (R69): a byte, or the address that does not exist. -/
def State.memRead (s : State) (a : Nat) : Except Fault Byte :=
  if a ≥ memSize then .error (.memoryBounds s.pc a) else .ok (Memory.read s.mem a)

/-- `Fetch(PC)` (spec/30_encoding.md R89): the byte at PC, then the byte at PC + 1, high byte first. -/
def State.fetch (s : State) : Except Fault Word :=
  match s.memRead s.pc.toNat with
  | .error f => .error f
  | .ok hi =>
    match s.memRead (s.pc.toNat + 1) with
    | .error f => .error f
    | .ok lo => .ok (wordOfBytes hi lo)

/-! ### Faults (spec/60_exceptions.md) -/

/-- Raises a fault (R10, R252): the cycle answers `Faulted` and none of its writes happens. -/
def raise (f : Fault) : Host.Outcome State Fault Refusal := .fault f

/-- Taking a fault: the one operation by which a fault changes the state. `fault` latches the kind and its info and
nothing else changes (R34, R90, R252); there is no trap entry (R255), and no return from one (R256). -/
def State.latchFault (s : State) (f : Fault) : State := { s with fault := some f }

/-- The numeric code of a fault kind (R250). -/
def Fault.code : Fault → Nat
  | .decodeError .. => 1
  | .stackOverflow .. => 2
  | .stackUnderflow .. => 3
  | .rangeError .. => 4
  | .memoryBounds .. => 5
  | .loadError .. => 6

/-- The PC a fault records (R250, R252); `LoadError` records none. -/
def Fault.recordedPC : Fault → Option Word
  | .decodeError pc _ => some pc
  | .stackOverflow pc => some pc
  | .stackUnderflow pc => some pc
  | .rangeError pc _ => some pc
  | .memoryBounds pc _ => some pc
  | .loadError _ => none

/-- Kinds 1 to 5 are cycle faults; `LoadError` is the load-time result (R250, R264). -/
def Fault.isCycleFault (f : Fault) : Bool := f.code != 6

/-- An instruction that touches the `k` bytes from `base` up: it raises `MemoryBounds` of the lowest address that does
not exist (R65, R69), or goes on. -/
def State.withRange (s : State) (base k : Nat) (go : Host.Outcome State Fault Refusal) :
    Host.Outcome State Fault Refusal :=
  match checkRange base k with
  | some a => raise (.memoryBounds s.pc a)
  | none => go

/-! ### Registers (spec/10_state.md) -/

/-- `V[r]`. -/
def State.getV (s : State) (r : RegIdx) : Byte := s.v[r]

/-- `V[r] <- b`. No register is hardwired (R21). -/
def State.setV (s : State) (r : RegIdx) (b : Byte) : State := { s with v := s.v.set r b }

/-- The number of VF, the flag register (R22). -/
def vf : RegIdx := 15

/-- `V[k] <- b` for the bytes of a list from `k` up; a number above 15 names no register. -/
def regsFrom (v : Vector Byte 16) (k : Nat) : List Byte → Vector Byte 16
  | [] => v
  | b :: rest => regsFrom (v.setIfInBounds k b) (k + 1) rest

/-- `V[0], V[1], ...`, the first `k` of them. -/
def State.regsUpTo (s : State) (k : Nat) : List Byte := s.v.toList.take k

/-- `V[k] <- vals[k]` for every byte of a list (spec/47_timers_memory.md R236). -/
def State.loadRegs (s : State) (vals : List Byte) : State := { s with v := regsFrom s.v 0 vals }

/-- `I <- w`. -/
def State.setI (s : State) (w : Word) : State := { s with ireg := w }

/-- `DT <- b`. -/
def State.setDT (s : State) (b : Byte) : State := { s with dt := b }

/-- `ST <- b`. -/
def State.setST (s : State) (b : Byte) : State := { s with st := b }

/-- The memory after an instruction's writes. -/
def State.setMem (s : State) (m : Memory) : State := { s with mem := m }

/-! ### The program counter: the outcomes of an instruction (spec/30_encoding.md R90, R91) -/

/-- Outcome `Next`: PC + 2, mod 2^16. -/
def State.advance (s : State) : State := { s with pc := s.pc + 2 }

/-- Outcome `Skip`: PC + 4, mod 2^16. -/
def State.skipNext (s : State) : State := { s with pc := s.pc + 4 }

/-- Outcome `Jump(t)`. -/
def State.jump (s : State) (t : Word) : State := { s with pc := t }

/-- Outcome `Stay`: PC unchanged. -/
def State.stay (s : State) : State := s

/-- `Skip` when the condition holds, `Next` otherwise (R91, spec/41_conditional_skip.md R134). -/
def State.skipIf (s : State) (c : Bool) : State := if c then s.skipNext else s.advance

/-! ### The return stack (spec/10_state.md R26, R27) -/

/-- `Stack[SP] <- w`, then `SP <- SP + 1` (spec/40_control_flow.md R114). -/
def State.push (s : State) (w : Word) : State :=
  { s with stack := s.stack.setIfInBounds s.sp.toNat w, sp := s.sp + 1 }

/-- `Stack[k]`. No rule reads an entry past the sixteenth. -/
def State.stackEntry (s : State) (k : Nat) : Word := s.stack.toList.getD k 0

/-- The entry the next `RET` returns through: `Stack[SP - 1]` (R112). -/
def State.topOfStack (s : State) : Word := s.stackEntry (s.sp.toNat - 1)

/-- `SP <- SP - 1` (R112). -/
def State.pop (s : State) : State := { s with sp := s.sp - 1 }

/-! ### Ports and timers -/

/-- `draw_rand()` (spec/44_index_random.md R182): the byte the `RAND` port gives now. -/
def State.randByte (s : State) : Byte := Config.randDraw s.draws

/-- One `RAND` byte is consumed (R182, R259). -/
def State.consumeDraw (s : State) : State := { s with draws := s.draws + 1 }

/-- `emit` (R10): events leave `DISPLAY_OUT` in order. -/
def State.emit (s : State) (es : List DisplayEvent) : State := { s with events := s.events ++ es }

/-- One counter's tick: down by one while above 0 (spec/47_timers_memory.md R237). -/
def tickCounter (b : Byte) : Byte := if b.toNat > 0 then b - 1 else b

/-- `TimerTick()` (R237): both counters. -/
def State.tick (s : State) : State := { s with dt := tickCounter s.dt, st := tickCounter s.st }

end Sys2Proof.Machine
end

