-- ==== Sys2Proof/Machine/Operands.lean ====
section
/-! DEFINITION. The operand forms of spec/30_encoding.md R82 and spec/43_alu.md R150. -/

namespace Sys2Proof.Machine

/-- `zext_16(NNN)` (R82). -/
def zextAddr (nnn : Addr12) : Word := nnn.setWidth 16

/-- `zext_16` of a register value. -/
def zextByte (b : Byte) : Word := b.setWidth 16

/-- `zext_8` of a key code (spec/46_key.md R223). -/
def zextKey (k : Nibble) : Byte := k.setWidth 8

/-- `src`, the value `SHR` and `SHL` shift (R150). -/
def State.shiftSource (s : State) (x y : RegIdx) : Byte :=
  match s.cfg.shiftSource with
  | .vx => s.getV x
  | .vy => s.getV y

/-- Whether the pressed key is the code in `V[x]`: a key is held, and its code is the whole 8-bit value
(spec/46_key.md R221). -/
def State.keyMatches (s : State) (x : RegIdx) : Bool :=
  match s.keySlot with
  | none => false
  | some k => zextKey k == s.getV x

/-- `⌊v/100⌋` (spec/47_timers_memory.md R234). -/
def hundreds (v : Byte) : Byte := BitVec.ofNat 8 (v.toNat / 100)

/-- `⌊v/10⌋ mod 10` (R234). -/
def tens (v : Byte) : Byte := BitVec.ofNat 8 (v.toNat / 10 % 10)

/-- `v mod 10` (R234). -/
def units (v : Byte) : Byte := BitVec.ofNat 8 (v.toNat % 10)

/-- The number of registers a block transfer moves: X + 1 (R235, R236). -/
def blockLength (x : RegIdx) : Nat := x.val + 1

/-- `(I + X + 1) mod 2^16` (R235, R236). -/
def State.advancedI (s : State) (x : RegIdx) : Word := s.ireg + BitVec.ofNat 16 (blockLength x)

end Sys2Proof.Machine
end

