-- ==== Sys2Proof/Machine/Flags.lean ====
section
/-! DEFINITION. The five flag computations of spec/43_alu.md R155 to R159, each from the operands before any write
(R161), and the two register writes of R150. -/

namespace Sys2Proof.Machine

/-- A flag as VF holds it: exactly 0 or 1 (spec/10_state.md R23). -/
def flagByte (c : Bool) : Byte := if c then 1 else 0

/-- Carry of `a + b` (R155): the exact sum is above 255. -/
def carryFlag (a b : Byte) : Byte := flagByte (decide (a.toNat + b.toNat > 255))

/-- No borrow in `a - b` (R156, R158): `a >= b`, unsigned. -/
def noBorrowFlag (a b : Byte) : Byte := flagByte (decide (a.toNat ≥ b.toNat))

/-- The bit a right shift by one drops: bit 0 of the source (R157). -/
def lowBitFlag (src : Byte) : Byte := flagByte (src.getLsbD 0)

/-- The bit a left shift by one drops: bit 7 of the source (R159). -/
def highBitFlag (src : Byte) : Byte := flagByte (src.getLsbD 7)

/-- `WriteRF(r, f)` (R150): VF ends holding the flag when `FLAG_LAST`, the result otherwise. -/
def State.writeRF (s : State) (x : RegIdx) (r f : Byte) : State :=
  if s.cfg.flagLast then (s.setV x r).setV vf f else (s.setV vf f).setV x r

/-- `WriteR(r)` (R150). -/
def State.writeR (s : State) (x : RegIdx) (r : Byte) : State := s.setV x r

end Sys2Proof.Machine
end

