-- ==== Sys2Proof/Machine/Alu.lean ====
section
/-! DEFINITION. The register-register ALU, family 0x8 (spec/43_alu.md). Both operands are read from the state before
any write (R150). -/

namespace Sys2Proof.Machine

/-- `LD Vx,Vy` (R151). -/
def execLdReg (x y : RegIdx) (s : State) : Host.Outcome State Fault Refusal := .next (s.writeR x (s.getV y)).advance

/-- `OR Vx,Vy` (R152). -/
def execOrReg (x y : RegIdx) (s : State) : Host.Outcome State Fault Refusal :=
  .next (s.writeR x (s.getV x ||| s.getV y)).advance

/-- `AND Vx,Vy` (R153). -/
def execAndReg (x y : RegIdx) (s : State) : Host.Outcome State Fault Refusal :=
  .next (s.writeR x (s.getV x &&& s.getV y)).advance

/-- `XOR Vx,Vy` (R154). -/
def execXorReg (x y : RegIdx) (s : State) : Host.Outcome State Fault Refusal :=
  .next (s.writeR x (s.getV x ^^^ s.getV y)).advance

/-- `ADD Vx,Vy` (R155): the sum mod 256, VF the carry. -/
def execAddReg (x y : RegIdx) (s : State) : Host.Outcome State Fault Refusal :=
  .next (s.writeRF x (s.getV x + s.getV y) (carryFlag (s.getV x) (s.getV y))).advance

/-- `SUB Vx,Vy` (R156): Vx - Vy mod 256, VF 1 when there is no borrow. -/
def execSub (x y : RegIdx) (s : State) : Host.Outcome State Fault Refusal :=
  .next (s.writeRF x (s.getV x - s.getV y) (noBorrowFlag (s.getV x) (s.getV y))).advance

/-- `SHR Vx,Vy{=Vx}` (R157): the source shifted right by one, VF its bit 0. -/
def execShr (x y : RegIdx) (s : State) : Host.Outcome State Fault Refusal :=
  .next (s.writeRF x (s.shiftSource x y >>> 1) (lowBitFlag (s.shiftSource x y))).advance

/-- `SUBN Vx,Vy` (R158): Vy - Vx mod 256, VF 1 when there is no borrow. -/
def execSubn (x y : RegIdx) (s : State) : Host.Outcome State Fault Refusal :=
  .next (s.writeRF x (s.getV y - s.getV x) (noBorrowFlag (s.getV y) (s.getV x))).advance

/-- `SHL Vx,Vy{=Vx}` (R159): the source shifted left by one mod 256, VF its bit 7. -/
def execShl (x y : RegIdx) (s : State) : Host.Outcome State Fault Refusal :=
  .next (s.writeRF x (s.shiftSource x y <<< 1) (highBitFlag (s.shiftSource x y))).advance

end Sys2Proof.Machine
end

