-- ==== Sys2Proof/Machine/Pixels.lean ====
section
/-! DEFINITION. The framebuffer XOR-plane engine (spec/45_draw_framebuffer.md R190 to R194). -/

namespace Sys2Proof.Machine

/-- `Pixel(x, y)` (spec/10_state.md R30). -/
def pixel (fb : Framebuffer) (x : Fin 64) (y : Fin 32) : Bool := fb[y][x]

/-- `Pixel(x, y) <- b`. -/
def setPixel (fb : Framebuffer) (x : Fin 64) (y : Fin 32) (b : Bool) : Framebuffer := fb.set y (fb[y].set x b)

/-- `px(x0, b) = (x0 + b) mod 64` (R190). -/
def pixelColumn (x0 : Byte) (b : Nat) : Fin 64 := Fin.ofNat 64 (x0.toNat + b)

/-- `py(y0, r) = (y0 + r) mod 32` (R190). -/
def pixelRow (y0 : Byte) (r : Nat) : Fin 32 := Fin.ofNat 32 (y0.toNat + r)

/-- The sprite bit at offset `b` of a row: bit 7 is the leftmost (R192). -/
def spriteBit (row : Byte) (b : Nat) : Bool := row.getLsbD (7 - b)

/-- One pixel of a draw: read, XOR, write, compare (R192). The accumulator is the framebuffer and `collided`. -/
def drawBit (x0 y0 row : Byte) (r : Nat) (acc : Framebuffer × Bool) (b : Nat) : Framebuffer × Bool :=
  let px := pixelColumn x0 b
  let py := pixelRow y0 r
  let old := pixel acc.1 px py
  let new := old ^^ spriteBit row b
  (setPixel acc.1 px py new, acc.2 || (old && !new))

/-- One row of a draw: offsets 0 to 7 (R192). -/
def drawRow (x0 y0 row : Byte) (r : Nat) (acc : Framebuffer × Bool) : Framebuffer × Bool :=
  (List.range 8).foldl (drawBit x0 y0 row r) acc

/-- The rows of a draw, the first at row offset `r` (R192). -/
def drawRows (x0 y0 : Byte) (r : Nat) (rows : List Byte) (acc : Framebuffer × Bool) : Framebuffer × Bool :=
  match rows with
  | [] => acc
  | row :: rest => drawRows x0 y0 (r + 1) rest (drawRow x0 y0 row r acc)

/-- `FbDraw(x0, y0, rows)` (R192): the framebuffer after the blit, and whether a set pixel was turned off. -/
def fbDraw (fb : Framebuffer) (x0 y0 : Byte) (rows : List Byte) : Framebuffer × Bool := drawRows x0 y0 0 rows (fb, false)

/-- `FbClear()` (R191): every pixel 0. -/
def fbClear : Framebuffer := blankFramebuffer

/-- The framebuffer after a draw or a clear. -/
def State.setFb (s : State) (fb : Framebuffer) : State := { s with fb := fb }

end Sys2Proof.Machine
end

