-- ==== Sys2Proof/Machine/ControlFlow.lean ====
section
/-! DEFINITION. Control flow: SYS, CLS, RET, JP, CALL, JP V0 (spec/40_control_flow.md). -/

namespace Sys2Proof.Machine

/-- `SYS addr` (R110): no effect, outcome `Next`. -/
def execSys (_nnn : Addr12) (s : State) : Host.Outcome State Fault Refusal := .next s.advance

/-- `CLS` (R111): every pixel 0, then `DisplayClear` and `Present` of the cleared framebuffer. VF is unchanged. -/
def execCls (s : State) : Host.Outcome State Fault Refusal :=
  .next ((s.setFb fbClear).emit [.displayClear, .present fbClear]).advance

/-- `RET` (R112): `StackUnderflow` when the stack is empty; otherwise the entry popped is the CALL's own address, and
execution resumes 2 after it. SP above `STACK_DEPTH` is outside R26 and refused (log 8). -/
def execRet (s : State) : Host.Outcome State Fault Refusal :=
  if s.sp = 0 then raise (.stackUnderflow s.pc)
  else if s.sp.toNat ≤ s.cfg.stackDepth.toNat then .next (s.pop.jump (s.topOfStack + 2))
  else .refused (.stackPointerOutOfRange s.pc s.sp)

/-- `JP addr` (R113). -/
def execJp (nnn : Addr12) (s : State) : Host.Outcome State Fault Refusal := .next (s.jump (zextAddr nnn))

/-- `CALL addr` (R114): `StackOverflow` when SP = `STACK_DEPTH`; otherwise the CALL's own address is pushed. SP above
`STACK_DEPTH` is outside R26 and refused (log 8). -/
def execCall (nnn : Addr12) (s : State) : Host.Outcome State Fault Refusal :=
  if s.sp.toNat = s.cfg.stackDepth.toNat then raise (.stackOverflow s.pc)
  else if s.sp.toNat < s.cfg.stackDepth.toNat then .next ((s.push s.pc).jump (zextAddr nnn))
  else .refused (.stackPointerOutOfRange s.pc s.sp)

/-- `JP V0,addr` (R115): the 16-bit sum, not masked to 12 bits. -/
def execJpV0 (nnn : Addr12) (s : State) : Host.Outcome State Fault Refusal :=
  .next (s.jump (zextAddr nnn + zextByte (s.getV 0)))

end Sys2Proof.Machine
end

