-- ==== Sys2Proof/Machine/Draw.lean ====
section
/-! DEFINITION. DRW (spec/45_draw_framebuffer.md R195, R196). -/

namespace Sys2Proof.Machine

/-- The blit of `DRW Vx,Vy,nibble`: the framebuffer after it, and the collision (R195). -/
def State.blit (s : State) (x y : RegIdx) (n : Nibble) : Framebuffer × Bool :=
  fbDraw s.fb (s.getV x) (s.getV y) (Memory.readBytes s.mem s.ireg.toNat n.toNat)

/-- `DRW Vx,Vy,nibble` (R195): N sprite rows from I, VF the collision, one `Present` of the result. -/
def execDrw (x y : RegIdx) (n : Nibble) (s : State) : Host.Outcome State Fault Refusal :=
  s.withRange s.ireg.toNat n.toNat
    (.next ((((s.setFb (s.blit x y n).1).setV vf (flagByte (s.blit x y n).2)).emit [.present (s.blit x y n).1]).advance))

end Sys2Proof.Machine
end

