-- ==== Sys2Proof/Machine/Immediate.lean ====
section
/-! DEFINITION. Register and immediate: LD Vx,byte and ADD Vx,byte (spec/42_register_immediate.md). -/

namespace Sys2Proof.Machine

/-- `LD Vx,byte` (R140). -/
def execLdByte (x : RegIdx) (nn : Byte) (s : State) : Host.Outcome State Fault Refusal := .next (s.setV x nn).advance

/-- `ADD Vx,byte` (R141): mod 256, no flag. -/
def execAddByte (x : RegIdx) (nn : Byte) (s : State) : Host.Outcome State Fault Refusal :=
  .next (s.setV x (s.getV x + nn)).advance

end Sys2Proof.Machine
end

