-- ==== Sys2Proof/Machine/IndexRandom.lean ====
section
/-! DEFINITION. LD I, ADD I and RND (spec/44_index_random.md). -/

namespace Sys2Proof.Machine

/-- `LD I,addr` (R180). -/
def execLdI (nnn : Addr12) (s : State) : Host.Outcome State Fault Refusal := .next (s.setI (zextAddr nnn)).advance

/-- `ADD I,Vx` (R181): mod 2^16, not masked to 12 bits, no flag. -/
def execAddI (x : RegIdx) (s : State) : Host.Outcome State Fault Refusal :=
  .next (s.setI (s.ireg + zextByte (s.getV x))).advance

/-- `RND Vx,byte` (R182): one fresh draw under a mask. The draw is taken whatever the mask. -/
def execRnd (x : RegIdx) (nn : Byte) (s : State) : Host.Outcome State Fault Refusal :=
  .next (s.consumeDraw.setV x (s.randByte &&& nn)).advance

end Sys2Proof.Machine
end

