-- ==== Sys2Proof/Machine/Key.lean ====
section
/-! DEFINITION. SKP, SKNP and LD Vx,K (spec/46_key.md). -/

namespace Sys2Proof.Machine

/-- `SKP Vx` (R221). -/
def execSkp (x : RegIdx) (s : State) : Host.Outcome State Fault Refusal := .next (s.skipIf (s.keyMatches x))

/-- `SKNP Vx` (R222). -/
def execSknp (x : RegIdx) (s : State) : Host.Outcome State Fault Refusal := .next (s.skipIf (!s.keyMatches x))

/-- `LD Vx,K` (R223): a no-op under `KEY_WAIT` = `NOP`; under `BLOCK` it stays until a key is held, then takes its
code. -/
def execLdVxK (x : RegIdx) (s : State) : Host.Outcome State Fault Refusal :=
  match s.cfg.keyWait with
  | .nop => .next s.advance
  | .block =>
    match s.keySlot with
    | none => .next s.stay
    | some k => .next (s.setV x (zextKey k)).advance

end Sys2Proof.Machine
end

