-- ==== Sys2Proof/Machine/TimersMemory.lean ====
section
/-! DEFINITION. Timer moves, glyph lookup, BCD and block transfer (spec/47_timers_memory.md). -/

namespace Sys2Proof.Machine

/-- `LD Vx,DT` (R230): DT before this cycle's tick. -/
def execLdVxDt (x : RegIdx) (s : State) : Host.Outcome State Fault Refusal := .next (s.setV x s.dt).advance

/-- `LD DT,Vx` (R231); the cycle's tick follows. -/
def execLdDtVx (x : RegIdx) (s : State) : Host.Outcome State Fault Refusal := .next (s.setDT (s.getV x)).advance

/-- `LD ST,Vx` (R232); the cycle's tick follows. -/
def execLdStVx (x : RegIdx) (s : State) : Host.Outcome State Fault Refusal := .next (s.setST (s.getV x)).advance

/-- `LD F,Vx` (R233): `I <- 5 * V[X]`, `RangeError` when V[X] is 16 or more. -/
def execLdF (x : RegIdx) (s : State) : Host.Outcome State Fault Refusal :=
  if (s.getV x).toNat ≥ 16 then raise (.rangeError s.pc (s.getV x))
  else .next (s.setI (BitVec.ofNat 16 (5 * (s.getV x).toNat))).advance

/-- `LD B,Vx` (R234): hundreds, tens and units at I, I + 1 and I + 2. I is unchanged. -/
def execLdB (x : RegIdx) (s : State) : Host.Outcome State Fault Refusal :=
  s.withRange s.ireg.toNat 3
    (.next (s.setMem (Memory.writeBytes s.mem s.ireg.toNat
      [hundreds (s.getV x), tens (s.getV x), units (s.getV x)])).advance)

/-- `LD [I],Vx` (R235): V0 to Vx into memory from I up, then I advances by X + 1. -/
def execStBlock (x : RegIdx) (s : State) : Host.Outcome State Fault Refusal :=
  s.withRange s.ireg.toNat (blockLength x)
    (.next ((s.setMem (Memory.writeBytes s.mem s.ireg.toNat (s.regsUpTo (blockLength x)))).setI (s.advancedI x)).advance)

/-- `LD Vx,[I]` (R236): V0 to Vx from memory from I up, then I advances by X + 1. -/
def execLdBlock (x : RegIdx) (s : State) : Host.Outcome State Fault Refusal :=
  s.withRange s.ireg.toNat (blockLength x)
    (.next ((s.loadRegs (Memory.readBytes s.mem s.ireg.toNat (blockLength x))).setI (s.advancedI x)).advance)

end Sys2Proof.Machine
end

