-- ==== Sys2Proof/Machine/Cycle.lean ====
section
/-! DEFINITION. The instruction cycle (spec/30_encoding.md R90): fetch, decode, execute with the PC update, timer tick. -/

namespace Sys2Proof.Machine

/-- The timer tick ends every cycle that completes, a `Stay` cycle too, and no other (spec/47_timers_memory.md R237). -/
def tickOutcome : Host.Outcome State Fault Refusal → Host.Outcome State Fault Refusal
  | .next t => .next t.tick
  | .fault f => .fault f
  | .refused r => .refused r

/-- Decodes a fetched word and executes it (R90): an illegal word is `DecodeError` with PC and the word
(spec/60_exceptions.md R250). -/
def State.runWord (s : State) (w : Word) : Host.Outcome State Fault Refusal :=
  match decodeWord s.cfg.strict59 w with
  | .reject _ => raise (.decodeError s.pc w)
  | .instr i => tickOutcome (exec i s)

/-- One cycle (R90). A latched fault is answered again (spec/60_exceptions.md R251); otherwise fetch, then decode, then
the instruction's own check (R253). A fault carries no state, so none of the cycle's writes survives it (R252). -/
def State.cycle (s : State) : Host.Outcome State Fault Refusal :=
  match s.fault with
  | some f => .fault f
  | none =>
    match s.fetch with
    | .error f => raise f
    | .ok w => s.runWord w

/-- `runCycle()` (R90), the `STEP` port: the state after the call, and what it answers. A fault is latched in the state
the cycle began in. -/
def State.runCycle (s : State) : State × StepResult :=
  match s.cycle with
  | .next t => (t, .ok)
  | .fault f => (s.latchFault f, .faulted f)
  | .refused r => (s, .refused r)

end Sys2Proof.Machine
end

