-- ==== Sys2Proof/Machine/Ports.lean ====
section
/-! DEFINITION. What the host does to a machine (spec/60_exceptions.md R259, spec/70_reset_and_hazards.md R280, R281):
construction, LOAD, KEY_IN, STEP, and the outputs FB_SNAPSHOT, STATUS and DISPLAY_OUT. -/

namespace Sys2Proof.Machine

/-- The values construction draws under `RESET_POLICY` = `ARBITRARY` (spec/10_state.md R38). -/
structure ConstructionDraw where
  v       : Vector Byte 16
  ireg    : Word
  pc      : Word
  stack   : Vector Word 16
  dt      : Byte
  st      : Byte
  /-- The bytes from 0x050 to 0xFFF; a byte past the list's end reads 0. -/
  free    : List Byte
  fb      : Framebuffer
  deriving DecidableEq, Repr

/-- The values of R38 under `RESET_POLICY` = `ZERO`. -/
def zeroDraw : ConstructionDraw where
  v := Vector.replicate 16 0
  ireg := 0
  pc := 0x200
  stack := Vector.replicate 16 0
  dt := 0
  st := 0
  free := []
  fb := blankFramebuffer

/-- The draw a policy uses: `ZERO` ignores what it is given. -/
def ResetPolicy.pick : ResetPolicy → ConstructionDraw → ConstructionDraw
  | .zero, _ => zeroDraw
  | .arbitrary, d => d

/-- `Mem` at construction (R38): `FONT` at 0x000 to 0x04F, then the free bytes up to 0xFFF. -/
def constructedMemory (font : Vector Byte 80) (free : List Byte) : Memory :=
  Memory.writeBytes (Memory.writeBytes [] 0 font.toList) fontSize (free.take (memSize - fontSize))

/-- Construction (R280): SP is 0, no key is pressed and no fault is latched under either policy (R38). -/
def State.construct (cfg : Config) (draw : ConstructionDraw) : State :=
  let d := ResetPolicy.pick cfg.resetPolicy draw
  { cfg := cfg, v := d.v, ireg := d.ireg, pc := d.pc, sp := 0, stack := d.stack, dt := d.dt, st := d.st,
    mem := constructedMemory cfg.font d.free, fb := d.fb, keySlot := none, fault := none, events := [], draws := 0 }

/-- `LOAD(image)` (R281): the image at 0x200 and PC at 0x200, or `LoadError` and no change (R264). -/
def State.load (s : State) (image : List Byte) : Host.Outcome State Fault Refusal :=
  if image.length > maxImage then raise (.loadError image.length)
  else .next ((s.setMem (Memory.writeBytes s.mem progBase image)).jump (BitVec.ofNat 16 progBase))

/-- `s` with a word's bytes at PC and PC + 1, high byte first (spec/20_memory.md R63); unchanged where one of the two
addresses does not exist. -/
def State.placeWord (s : State) (w : Word) : State :=
  match checkRange s.pc.toNat 2 with
  | some _ => s
  | none => s.setMem (Memory.writeBytes s.mem s.pc.toNat [highByte w, lowByte w])

/-- `KEY_IN` (spec/10_state.md R33): the latest value replaces the last one. -/
def State.keyPressed (s : State) (k : Option Nibble) : State := { s with keySlot := k }

/-- `FB_SNAPSHOT` (spec/45_draw_framebuffer.md R197). -/
def State.fbSnapshot (s : State) : Framebuffer := s.fb

/-- `STATUS` (R259). -/
def State.status (s : State) : Option Fault := s.fault

/-- `DISPLAY_OUT` (R259): what a cycle from `s` to `t` emitted. -/
def State.emittedSince (t s : State) : List DisplayEvent := t.events.drop s.events.length

/-- What the host may do between and with cycles (R260). -/
inductive HostMove where
  | step
  | keyIn (k : Option Nibble)
  deriving DecidableEq, Repr

/-- One host move; a `STEP` leaves the state `runCycle` leaves (R286). -/
def State.hostMove (s : State) : HostMove → State
  | .step => s.runCycle.1
  | .keyIn k => s.keyPressed k

/-- The state after a sequence of host moves: a run (R286). -/
def State.hostRun (s : State) : List HostMove → State
  | [] => s
  | m :: rest => (s.hostMove m).hostRun rest

end Sys2Proof.Machine
end

