-- ==== Sys2Proof/Machine/Step.lean ====
section
/-! DEFINITION. One step of the machine, and placing one instruction where the next step fetches. -/

namespace Sys2Proof.Machine

/-- One `STEP` (spec/60_exceptions.md R259): `next` is `Ok`, `fault` is `Faulted`. -/
def step : State → Host.Outcome State Fault Refusal := State.cycle

/-- `s` with an instruction word at PC and PC + 1 (log 7). -/
def State.withFetchWord (s : State) (nbits w : Nat) : State := s.placeWord (tableWord nbits w)

end Sys2Proof.Machine
end

