-- ==== Sys2Proof/Safety.lean ====
section
/-! DEFINITION. What the claims are stated in: the invariant of every run, what an instruction may change, when an
instruction faults, and what a safe run is. -/

namespace Sys2Proof.Machine

/-- What holds in every state of a run that begins with `LOAD`: memory is in its canonical form; SP counts at most
`STACK_DEPTH` entries (spec/10_state.md R26); PC is at most 0x10FE, the largest target of R25; every live stack entry
is the address of a `CALL` that was fetched (R27), so at most 0xFFE; `STATUS` never shows a load-time result
(spec/60_exceptions.md R264). -/
def State.Inv (s : State) : Prop :=
  s.mem.wf ∧ s.sp.toNat ≤ s.cfg.stackDepth.toNat ∧ s.pc.toNat ≤ 0x10FE ∧
  (∀ k, k < s.sp.toNat → (s.stackEntry k).toNat ≤ 0xFFE) ∧ (∀ f, s.fault = some f → f.isCycleFault = true)

/-- A run is safe when it has not ended in a fault, its only bad end (spec/70_reset_and_hazards.md R286). -/
def State.SafeRun (s : State) (moves : List HostMove) : Prop := (s.hostRun moves).fault = none

/-- What an instruction may change beside PC. -/
structure Footprint where
  /-- V registers. -/
  regs      : List RegIdx := []
  /-- Addresses of memory. -/
  bytes     : List Nat := []
  /-- I. -/
  index     : Bool := false
  /-- SP and the stack. -/
  callStack : Bool := false
  /-- DT. -/
  delay     : Bool := false
  /-- ST. -/
  sound     : Bool := false
  /-- The framebuffer and the event stream. -/
  screen    : Bool := false
  /-- The count of `RAND` bytes consumed. -/
  draw      : Bool := false
  deriving DecidableEq, Repr

/-- From `s` to `t` nothing outside the footprint changed, but for PC. Memory is compared byte by byte through the
model's read of one byte. -/
def Footprint.covers (f : Footprint) (s t : State) : Prop :=
  (t.cfg = s.cfg ∧ t.keySlot = s.keySlot ∧ t.fault = s.fault) ∧
  (∀ r, r ∉ f.regs → t.getV r = s.getV r) ∧
  (∀ a, a ∉ f.bytes → t.mem.read a = s.mem.read a) ∧
  (f.index = false → t.ireg = s.ireg) ∧
  (f.callStack = false → t.sp = s.sp ∧ t.stack = s.stack) ∧
  (f.delay = false → t.dt = s.dt) ∧
  (f.sound = false → t.st = s.st) ∧
  (f.screen = false → t.fb = s.fb ∧ t.events = s.events) ∧
  (f.draw = false → t.draws = s.draws)

/-- The `k` addresses from `a` up. -/
def byteRange (a k : Nat) : List Nat := (List.range k).map (a + ·)

/-- What each instruction may change beside PC, read from its rule in spec/40 to spec/47. The stored addresses are
those of the state before the instruction. -/
def footprint (i : Instr) (s : State) : Footprint :=
  match i with
  | .sys _ => {}
  | .cls => { screen := true }
  | .ret => { callStack := true }
  | .jp _ => {}
  | .call _ => { callStack := true }
  | .seByte _ _ => {}
  | .sneByte _ _ => {}
  | .seReg _ _ => {}
  | .ldByte x _ => { regs := [x] }
  | .addByte x _ => { regs := [x] }
  | .ldReg x _ => { regs := [x] }
  | .orReg x _ => { regs := [x] }
  | .andReg x _ => { regs := [x] }
  | .xorReg x _ => { regs := [x] }
  | .addReg x _ => { regs := [x, vf] }
  | .sub x _ => { regs := [x, vf] }
  | .shr x _ => { regs := [x, vf] }
  | .subn x _ => { regs := [x, vf] }
  | .shl x _ => { regs := [x, vf] }
  | .sneReg _ _ => {}
  | .ldI _ => { index := true }
  | .jpV0 _ => {}
  | .rnd x _ => { regs := [x], draw := true }
  | .drw _ _ _ => { regs := [vf], screen := true }
  | .skp _ => {}
  | .sknp _ => {}
  | .ldVxDt x => { regs := [x] }
  | .ldVxK x => { regs := if s.cfg.keyWait = .block then [x] else [] }
  | .ldDtVx _ => { delay := true }
  | .ldStVx _ => { sound := true }
  | .addI _ => { index := true }
  | .ldF _ => { index := true }
  | .ldB _ => { bytes := byteRange s.ireg.toNat 3 }
  | .stBlock x => { bytes := byteRange s.ireg.toNat (blockLength x), index := true }
  | .ldBlock x => { regs := (List.finRange 16).filter (· ≤ x), index := true }

/-- The bytes an instruction stores from I up (spec/20_memory.md R62, R64): the three digits of Vx, or V0 to Vx; none for
any other instruction. -/
def storedBytes (i : Instr) (s : State) : List Byte :=
  match i with
  | .ldB x => [hundreds (s.getV x), tens (s.getV x), units (s.getV x)]
  | .stBlock x => s.regsUpTo (blockLength x)
  | .sys _ | .cls | .ret | .jp _ | .call _ | .jpV0 _ => []
  | .seByte _ _ | .sneByte _ _ | .seReg _ _ | .sneReg _ _ | .skp _ | .sknp _ => []
  | .ldByte _ _ | .addByte _ _ | .ldReg _ _ | .orReg _ _ | .andReg _ _ | .xorReg _ _ => []
  | .addReg _ _ | .sub _ _ | .shr _ _ | .subn _ _ | .shl _ _ => []
  | .ldI _ | .addI _ | .rnd _ _ | .drw _ _ _ | .ldVxDt _ | .ldVxK _ | .ldDtVx _ | .ldStVx _ => []
  | .ldF _ | .ldBlock _ => []

/-- The byte at `a` once the bytes `bs` are stored from `base` up: the stored one inside their range, the byte of `m`
outside it. -/
def overlaid (m : Memory) (base : Nat) (bs : List Byte) (a : Nat) : Byte :=
  if base ≤ a ∧ a < base + bs.length then bs.getD (a - base) 0 else m.read a

/-- `MemoryBounds` of the `k` addresses from `base` up, where one of them does not exist: the lowest one
(spec/20_memory.md R65). -/
def boundsFault (s : State) (base k : Nat) : Option Fault :=
  if k ≠ 0 ∧ base + k > 4096 then some (.memoryBounds s.pc (max base 4096)) else none

/-- The fault of an instruction's own check, at most one (spec/60_exceptions.md R250, R253). -/
def ownFault (i : Instr) (s : State) : Option Fault :=
  match i with
  | .ret => if s.sp.toNat = 0 then some (.stackUnderflow s.pc) else none
  | .call _ => if s.sp.toNat = s.cfg.stackDepth.toNat then some (.stackOverflow s.pc) else none
  | .ldF x => if (s.getV x).toNat ≥ 16 then some (.rangeError s.pc (s.getV x)) else none
  | .drw _ _ n => boundsFault s s.ireg.toNat n.toNat
  | .ldB _ => boundsFault s s.ireg.toNat 3
  | .stBlock x => boundsFault s s.ireg.toNat (x.val + 1)
  | .ldBlock x => boundsFault s s.ireg.toNat (x.val + 1)
  | .sys _ | .cls | .jp _ | .jpV0 _ => none
  | .seByte _ _ | .sneByte _ _ | .seReg _ _ | .sneReg _ _ | .skp _ | .sknp _ => none
  | .ldByte _ _ | .addByte _ _ | .ldReg _ _ | .orReg _ _ | .andReg _ _ | .xorReg _ _ => none
  | .addReg _ _ | .sub _ _ | .shr _ _ | .subn _ _ | .shl _ _ => none
  | .ldI _ | .addI _ | .rnd _ _ | .ldVxDt _ | .ldVxK _ | .ldDtVx _ | .ldStVx _ => none

/-- How an instruction moves PC (spec/30_encoding.md R91). -/
inductive PcClass where
  | next
  | skip
  | jump
  | wait
  deriving DecidableEq, Repr

/-- The class of an instruction, a property of the instruction alone (R91). -/
def pcClass : Instr → PcClass
  | .jp _ | .jpV0 _ | .call _ | .ret => .jump
  | .seByte _ _ | .sneByte _ _ | .seReg _ _ | .sneReg _ _ | .skp _ | .sknp _ => .skip
  | .ldVxK _ => .wait
  | .sys _ | .cls | .ldByte _ _ | .addByte _ _ | .ldReg _ _ | .orReg _ _ | .andReg _ _ | .xorReg _ _ => .next
  | .addReg _ _ | .sub _ _ | .shr _ _ | .subn _ _ | .shl _ _ | .ldI _ | .addI _ | .rnd _ _ | .drw _ _ _ => .next
  | .ldVxDt _ | .ldDtVx _ | .ldStVx _ | .ldF _ | .ldB _ | .stBlock _ | .ldBlock _ => .next

end Sys2Proof.Machine
end

