-- ==== Sys2Proof/Certificates/Slice0/Obligations.lean ====
section
/-! DEFINITION. The statements about the model, each read from the numbered rules of spec/. -/

open Sys2Proof Sys2Proof.Machine

/-! ### Words the statements share -/

/-- A word stands for an instruction under either value of `STRICT_5_9`. -/
def EncodesAs (w : Word) (i : Instr) : Prop := ∀ strict, decodeWord strict w = .instr i

/-- The word two bytes of memory at PC form, as the decoder reads them. -/
def decodeAtPC (s : State) : Decoded × List Byte :=
  decodeBytes s.cfg.strict59 [s.mem.read s.pc.toNat, s.mem.read (s.pc.toNat + 1)]

/-- The outcome of a flag-setting instruction (spec/43_alu.md R150): result `r` and flag `f` as numbers. With X = F the
two writes meet in VF and `FLAG_LAST` decides. -/
def FlagWrite (s t : State) (x : RegIdx) (r f : Nat) : Prop :=
  t.pc = s.pc + 2 ∧
  (x ≠ vf → (t.getV x).toNat = r ∧ (t.getV vf).toNat = f) ∧
  (x = vf → (t.getV vf).toNat = if s.cfg.flagLast then f else r) ∧
  ({ regs := [x, vf] } : Footprint).covers s t

/-- The value `SHR` and `SHL` shift (R150). -/
def shifted (s : State) (x y : RegIdx) : Nat :=
  if s.cfg.shiftSource = .vx then (s.getV x).toNat else (s.getV y).toNat

/-- Bit 7 - b of sprite row r (spec/45_draw_framebuffer.md R192). -/
def spriteBitAt (rows : List Byte) (r b : Nat) : Bool := (rows.getD r 0).getLsbD (7 - b)

/-- S(p) of R193: some 1 bit of the sprite maps to pixel (x, y). -/
def SpriteCovers (x0 y0 : Byte) (rows : List Byte) (x : Fin 64) (y : Fin 32) : Prop :=
  ∃ r b, r < rows.length ∧ b < 8 ∧ spriteBitAt rows r b = true ∧
    x.val = (x0.toNat + b) % 64 ∧ y.val = (y0.toNat + r) % 32

/-- The sprite rows `DRW` reads: `n` bytes from I up. -/
def SpriteRows (s : State) (n : Nat) (rows : List Byte) : Prop :=
  rows.length = n ∧ ∀ r, r < n → rows.getD r 0 = s.mem.read (s.ireg.toNat + r)

/-- The outcome with ST taken out of the state it ends in. -/
def withoutSound : Host.Outcome State Fault Refusal → Host.Outcome State Fault Refusal
  | .next t => .next { t with st := 0 }
  | .fault f => .fault f
  | .refused r => .refused r

/-- The outcome with another pressed key in the state it ends in. -/
def withKey (k : Option Nibble) : Host.Outcome State Fault Refusal → Host.Outcome State Fault Refusal
  | .next t => .next { t with keySlot := k }
  | .fault f => .fault f
  | .refused r => .refused r

/-- The six instructions that write VF as a flag (spec/10_state.md R22). -/
def writesFlag : Instr → Bool
  | .addReg _ _ | .sub _ _ | .subn _ _ | .shr _ _ | .shl _ _ | .drw _ _ _ => true
  | .sys _ | .cls | .ret | .jp _ | .call _ | .jpV0 _ => false
  | .seByte _ _ | .sneByte _ _ | .seReg _ _ | .sneReg _ _ | .skp _ | .sknp _ => false
  | .ldByte _ _ | .addByte _ _ | .ldReg _ _ | .orReg _ _ | .andReg _ _ | .xorReg _ _ => false
  | .ldI _ | .addI _ | .rnd _ _ | .ldVxDt _ | .ldVxK _ | .ldDtVx _ | .ldStVx _ => false
  | .ldF _ | .ldB _ | .stBlock _ | .ldBlock _ => false

/-- The flag writers whose result lands in VF too (X = F), where `FLAG_LAST` decides (spec/43_alu.md R150). -/
def resultIsVF : Instr → Bool
  | .addReg x _ | .sub x _ | .subn x _ | .shr x _ | .shl x _ => x == vf
  | .drw _ _ _ => false
  | .sys _ | .cls | .ret | .jp _ | .call _ | .jpV0 _ => false
  | .seByte _ _ | .sneByte _ _ | .seReg _ _ | .sneReg _ _ | .skp _ | .sknp _ => false
  | .ldByte _ _ | .addByte _ _ | .ldReg _ _ | .orReg _ _ | .andReg _ _ | .xorReg _ _ => false
  | .ldI _ | .addI _ | .rnd _ _ | .ldVxDt _ | .ldVxK _ | .ldDtVx _ | .ldStVx _ => false
  | .ldF _ | .ldB _ | .stBlock _ | .ldBlock _ => false

/-! ### Encoding and decoding (spec/30_encoding.md) -/

/-- Every operand at every value its type admits survives encoding and decoding; two bytes are consumed. -/
def Obligations.DecodeInvertsEncode : Prop :=
  ∀ (strict : Bool) (i : Instr) (rest : List Byte), i.wf = true →
    decodeBytes strict (encodeBytes i ++ rest) = (.instr i, rest)

/-- With `STRICT_5_9` each legal word has one meaning and each instruction one word: no bit of a word is ignored. -/
def Obligations.EncodeInvertsStrictDecode : Prop :=
  ∀ (w : Word) (i : Instr), decodeWord true w = .instr i → i.wf = true ∧ encode i = w

/-- The illegal words are exactly the four sets of R87. -/
def Obligations.IllegalWordsAreExactlyTheListedSets : Prop :=
  ∀ (strict : Bool) (w : Word), (∃ r, decodeWord strict w = .reject r) ↔
    (fieldF w = 0x8 ∧ fieldN w ∈ ([0x8, 0x9, 0xA, 0xB, 0xC, 0xD, 0xF] : List Nibble)) ∨
    (fieldF w = 0xE ∧ fieldNN w ∉ ([0x9E, 0xA1] : List Byte)) ∨
    (fieldF w = 0xF ∧ fieldNN w ∉ ([0x07, 0x0A, 0x15, 0x18, 0x1E, 0x29, 0x33, 0x55, 0x65] : List Byte)) ∨
    (strict = true ∧ (fieldF w = 0x5 ∨ fieldF w = 0x9) ∧ fieldN w ≠ 0)

/-- A word decodes to the instruction of an opcode-map row exactly when the row covers it: all 35 rows of R83. -/
def Obligations.DecoderFollowsTheOpcodeMap : Prop :=
  ∀ (w : Word) (k : Nat), k < 35 →
    ((opcodeRows.getD k ⟨0, 0, []⟩).covers w = true ↔ ∃ i, decodeWord false w = .instr i ∧ i.row = k)

/-- R85: family 0x0 yields no `DecodeError`; two words are matched exactly and every other one is `SYS`, which has no
effect. -/
def Obligations.FamilyZeroDecodesWithoutError : Prop :=
  ∀ (strict : Bool) (w : Word), fieldF w = 0 →
    (w = 0x00E0 → decodeWord strict w = .instr .cls) ∧
    (w = 0x00EE → decodeWord strict w = .instr .ret) ∧
    (w ≠ 0x00E0 → w ≠ 0x00EE → decodeWord strict w = .instr (.sys (fieldNNN w)) ∧
      ∀ s, ∃ t, exec (.sys (fieldNNN w)) s = .next t ∧ t.pc = s.pc + 2 ∧ ({} : Footprint).covers s t)

/-- R86: N is ignored in families 0x5 and 0x9 unless `STRICT_5_9`, which rejects a nonzero N. -/
def Obligations.CompareFamiliesAndStrictness : Prop :=
  ∀ (w : Word),
    (fieldF w = 0x5 → decodeWord false w = .instr (.seReg (fieldX w) (fieldY w)) ∧
      (fieldN w ≠ 0 → ∃ r, decodeWord true w = .reject r)) ∧
    (fieldF w = 0x9 → decodeWord false w = .instr (.sneReg (fieldX w) (fieldY w)) ∧
      (fieldN w ≠ 0 → ∃ r, decodeWord true w = .reject r))

/-- Words written out from the encodings of R83 decode to the instructions they stand for, one per family. -/
def Obligations.WrittenWordsDecode : Prop :=
  EncodesAs 0x0123 (.sys 0x123) ∧ EncodesAs 0x00E0 .cls ∧ EncodesAs 0x2ABC (.call 0xABC) ∧
  EncodesAs 0x3342 (.seByte 3 0x42) ∧ EncodesAs 0x5120 (.seReg 1 2) ∧ EncodesAs 0x7220 (.addByte 2 0x20) ∧
  EncodesAs 0x8017 (.subn 0 1) ∧ EncodesAs 0xA2F0 (.ldI 0x2F0) ∧ EncodesAs 0xC30F (.rnd 3 0x0F) ∧
  EncodesAs 0xD125 (.drw 1 2 5) ∧ EncodesAs 0xE2A1 (.sknp 2) ∧ EncodesAs 0xF265 (.ldBlock 2)

/-! ### The cycle (spec/30_encoding.md R89, R90; spec/60_exceptions.md) -/

/-- When the bytes at PC decode to an instruction, the step is that instruction's execution with the timer tick after
it; a fault or a refusal of the instruction is the step's. -/
def Obligations.StepRunsTheDecodedInstruction : Prop :=
  ∀ (s : State) (i : Instr), s.fault = none → s.pc.toNat + 1 < 4096 → decodeAtPC s = (.instr i, []) →
    step s = match exec i s with
      | .next t => .next t.tick
      | .fault f => .fault f
      | .refused r => .refused r

/-- The two faults of a cycle before execution: a fetch at or above 0xFFF raises `MemoryBounds` with the lower bad
address of PC and PC + 1; an illegal word at PC raises `DecodeError` with PC and the word. -/
def Obligations.FetchAndDecodeFaults : Prop :=
  ∀ s : State, s.fault = none →
    (4096 ≤ s.pc.toNat → step s = .fault (.memoryBounds s.pc s.pc.toNat)) ∧
    (s.pc.toNat = 4095 → step s = .fault (.memoryBounds s.pc 4096)) ∧
    ∀ r, s.pc.toNat < 4095 → decodeAtPC s = (.reject r, []) →
      step s = .fault (.decodeError s.pc (wordOfBytes (s.mem.read s.pc.toNat) (s.mem.read (s.pc.toNat + 1))))

/-- R251: a cycle that faults sets `fault`; from then on every cycle answers the same fault and changes nothing, and
neither instruction nor port clears it. -/
def Obligations.FaultedMachineIsAbsorbing : Prop :=
  (∀ (s : State) (f : Fault), s.runCycle.2 = .faulted f → s.runCycle.1.fault = some f) ∧
  ∀ (s : State) (f : Fault), s.fault = some f →
    (∀ moves, ∃ k, s.hostRun moves = { s with keySlot := k } ∧
      (s.hostRun moves).runCycle = (s.hostRun moves, .faulted f)) ∧
    ∀ image t, s.load image = .next t → t.fault = some f

/-- R252: a faulting cycle commits nothing: the state after it is the state before it with `fault` set, and the fault
records the PC of the faulting instruction. -/
def Obligations.FaultingCycleCommitsNothing : Prop :=
  ∀ (s : State) (f : Fault), s.fault = none → s.runCycle.2 = .faulted f →
    s.runCycle.1 = { s with fault := some f } ∧ f.recordedPC = some s.pc

/-- Each instruction faults exactly on its own check, with the info of R250, and completes otherwise. -/
def Obligations.InstructionsFaultExactlyOnTheirOwnCheck : Prop :=
  ∀ (i : Instr) (s : State), s.sp.toNat ≤ s.cfg.stackDepth.toNat →
    match ownFault i s with
    | some f => exec i s = .fault f
    | none => ∃ t, exec i s = .next t

/-- In every state of the invariant a step completes or faults; nothing is refused. -/
def Obligations.StepNeverRefuses : Prop :=
  ∀ s r, s.Inv → step s ≠ .refused r

/-! ### The invariant -/

/-- Every step keeps the invariant. -/
def Obligations.StepKeepsInvariant : Prop :=
  ∀ s t, s.Inv → step s = .next t → t.Inv

/-- The invariant holds in `State.reset`. It rests on the model's choice of log 2 (`RESET_POLICY` = `ZERO`, so PC = 0x200): a
machine constructed under `ARBITRARY` meets the invariant from its `LOAD` on (`EveryRunKeepsInvariant`). -/
def Obligations.ResetMeetsInvariant : Prop := State.reset.Inv

/-- Whatever the parameters, the values drawn at construction, the image loaded and the moves of the host, the
invariant holds at the end of the run, so no run reaches a wrapped PC, a stack pointer out of range, a return address
that was never fetched or memory out of its canonical form. That PC never wraps is an inference spec/10_state.md R25 marks as
its own (derived: from rule R25 and 20_memory.md rule R65). -/
def Obligations.EveryRunKeepsInvariant : Prop :=
  ∀ cfg draw image moves s, (State.construct cfg draw).load image = .next s → (s.hostRun moves).Inv

/-- A step writes neither the parameters nor the pressed-key slot, and leaves `fault` unset. -/
def Obligations.StepKeepsParametersAndKey : Prop :=
  ∀ s t, step s = .next t → t.cfg = s.cfg ∧ t.keySlot = s.keySlot ∧ t.fault = none

/-! ### Construction and load (spec/10_state.md R38, spec/70_reset_and_hazards.md) -/

/-- The values of the reset state (log 1: the default parameters; log 2: the spec's `ZERO` values where its source gives
none; log 3: the bytes of the default `FONT`). `State.draws`, the model's own field (log 5), is left out. -/
def Obligations.ResetValues : Prop :=
  let s := State.reset
  s.cfg = { stackDepth := .sixteen, shiftSource := .vx, flagLast := true, keyWait := .nop, strict59 := false,
            resetPolicy := .zero, font := defaultFont } ∧
  s.pc = 0x200 ∧ s.sp = 0 ∧ s.ireg = 0 ∧ s.dt = 0 ∧ s.st = 0 ∧ s.keySlot = none ∧ s.fault = none ∧ s.events = [] ∧
  (∀ r, s.getV r = 0) ∧ (∀ k, s.stackEntry k = 0) ∧ (∀ x y, pixel s.fb x y = false) ∧
  (∀ a, a < 80 → s.mem.read a = defaultFont.toList.getD a 0) ∧
  s.mem.read 0x000 = 0xF0 ∧ s.mem.read 0x04F = 0x80 ∧ ∀ a, 0x050 ≤ a → s.mem.read a = 0

/-- Construction for every parameter set and every draw of the open values (log 2); with the default parameters it is
the reset state, whatever is drawn. -/
def Obligations.ConstructionValues : Prop :=
  ∀ cfg draw, let s := State.construct cfg draw
    s.cfg = cfg ∧ s.sp = 0 ∧ s.keySlot = none ∧ s.fault = none ∧ s.events = [] ∧ s.mem.wf ∧
    (∀ a, a < 80 → s.mem.read a = cfg.font.toList.getD a 0) ∧
    (cfg.resetPolicy = .zero → s.pc = 0x200 ∧ s.ireg = 0 ∧ s.dt = 0 ∧ s.st = 0 ∧ (∀ r, s.getV r = 0) ∧
      (∀ k, s.stackEntry k = 0) ∧ (∀ x y, pixel s.fb x y = false) ∧ ∀ a, 80 ≤ a → s.mem.read a = 0) ∧
    (cfg.resetPolicy = .arbitrary → s.pc = draw.pc ∧ s.ireg = draw.ireg ∧ s.dt = draw.dt ∧ s.st = draw.st ∧
      s.v = draw.v ∧ s.stack = draw.stack ∧ s.fb = draw.fb ∧
      ∀ a, 80 ≤ a → a < 4096 → s.mem.read a = draw.free.getD (a - 80) 0) ∧
    State.construct defaultConfig draw = State.reset

/-- R281: `LOAD` copies the image to 0x200 and sets PC to 0x200, and changes nothing else; an image over 3584 bytes is
`LoadError`; an empty image is legal, and the word 0x0000 at 0x200 then executes as `SYS`. -/
def Obligations.LoadPlacesTheImage : Prop :=
  (∀ (s : State) (image : List Byte),
    (image.length > 3584 → s.load image = .fault (.loadError image.length)) ∧
    (image.length ≤ 3584 → ∃ t, s.load image = .next t ∧ t.pc = 0x200 ∧
      (∀ k, k < image.length → t.mem.read (0x200 + k) = image.getD k 0) ∧
      ({ bytes := byteRange 0x200 image.length } : Footprint).covers s t)) ∧
  ∀ s : State, s.fault = none → s.mem.read 0x200 = 0 → s.mem.read 0x201 = 0 →
    ∃ t u, s.load [] = .next t ∧ t.pc = 0x200 ∧ decodeAtPC t = (.instr (.sys 0), []) ∧ step t = .next u ∧ u.pc = 0x202

/-! ### Control flow (spec/40_control_flow.md) -/

/-- R110: `SYS` has no effect beyond PC + 2. -/
def Obligations.SysHasNoEffect : Prop :=
  ∀ nnn, (nnn ≠ 0x0E0 → nnn ≠ 0x0EE → EncodesAs (wordNNN 0x0 nnn) (.sys nnn)) ∧
    ∀ s, ∃ t, exec (.sys nnn) s = .next t ∧ t.pc = s.pc + 2 ∧ ({} : Footprint).covers s t

/-- R111, with the two display events after those emitted before (log 6: the stream is kept in State). VF is unchanged. -/
def Obligations.ClsClearsTheScreen : Prop :=
  EncodesAs 0x00E0 .cls ∧ ∀ s, ∃ t, exec .cls s = .next t ∧ t.pc = s.pc + 2 ∧ (∀ x y, pixel t.fb x y = false) ∧
    t.events = s.events ++ [.displayClear, .present t.fb] ∧ ({ screen := true } : Footprint).covers s t

/-- R112: `StackUnderflow` on an empty stack; otherwise SP falls by one and execution resumes 2 after the popped
address, which stays in the stack. -/
def Obligations.RetPopsAndResumesAfterTheCall : Prop :=
  EncodesAs 0x00EE .ret ∧ ∀ s,
    (s.sp.toNat = 0 → exec .ret s = .fault (.stackUnderflow s.pc)) ∧
    (0 < s.sp.toNat → s.sp.toNat ≤ s.cfg.stackDepth.toNat →
      ∃ t, exec .ret s = .next t ∧ t.sp.toNat = s.sp.toNat - 1 ∧
        t.pc.toNat = ((s.stackEntry (s.sp.toNat - 1)).toNat + 2) % 65536 ∧ t.stack = s.stack ∧
        ({ callStack := true } : Footprint).covers s t)

/-- R113: PC becomes the 12-bit address, with no + 2, and nothing else changes. -/
def Obligations.JpSetsPC : Prop :=
  ∀ nnn, EncodesAs (wordNNN 0x1 nnn) (.jp nnn) ∧
    ∀ s, ∃ t, exec (.jp nnn) s = .next t ∧ t.pc.toNat = nnn.toNat ∧ ({} : Footprint).covers s t

/-- R114: `StackOverflow` at SP = `STACK_DEPTH`; otherwise the CALL's own address is pushed and PC becomes the address;
no other entry changes. -/
def Obligations.CallPushesItsOwnAddress : Prop :=
  ∀ nnn, EncodesAs (wordNNN 0x2 nnn) (.call nnn) ∧ ∀ s,
    (s.sp.toNat = s.cfg.stackDepth.toNat → exec (.call nnn) s = .fault (.stackOverflow s.pc)) ∧
    (s.sp.toNat < s.cfg.stackDepth.toNat →
      ∃ t, exec (.call nnn) s = .next t ∧ t.pc.toNat = nnn.toNat ∧ t.sp.toNat = s.sp.toNat + 1 ∧
        (∀ k, t.stackEntry k = if k = s.sp.toNat then s.pc else s.stackEntry k) ∧
        ({ callStack := true } : Footprint).covers s t)

/-- R115: PC becomes the unmasked sum of the address and V0. -/
def Obligations.JpV0AddsRegisterZero : Prop :=
  ∀ nnn, EncodesAs (wordNNN 0xB nnn) (.jpV0 nnn) ∧
    ∀ s, ∃ t, exec (.jpV0 nnn) s = .next t ∧ t.pc.toNat = nnn.toNat + (s.getV 0).toNat ∧
      ({} : Footprint).covers s t

/-- A `RET` that meets the stack a `CALL` left resumes at the instruction after the `CALL`, at the depth before it,
whatever ran between. -/
def Obligations.ReturnResumesAfterTheCall : Prop :=
  ∀ nnn s t u, s.sp.toNat < s.cfg.stackDepth.toNat → exec (.call nnn) s = .next t →
    u.cfg = t.cfg → u.sp = t.sp → u.stack = t.stack →
    ∃ r, exec .ret u = .next r ∧ r.pc = s.pc + 2 ∧ r.sp = s.sp ∧
      ∀ k, k < s.sp.toNat → r.stackEntry k = s.stackEntry k

/-! ### Skips (spec/41_conditional_skip.md) -/

/-- R130, R131, R134: the immediate skips add 4 to PC when taken and 2 when not, and write nothing. -/
def Obligations.ImmediateSkips : Prop :=
  ∀ x nn, EncodesAs (wordXNN 0x3 x nn) (.seByte x nn) ∧ EncodesAs (wordXNN 0x4 x nn) (.sneByte x nn) ∧ ∀ s,
    (∃ t, exec (.seByte x nn) s = .next t ∧ t.pc = (if s.getV x = nn then s.pc + 4 else s.pc + 2) ∧
      ({} : Footprint).covers s t) ∧
    (∃ t, exec (.sneByte x nn) s = .next t ∧ t.pc = (if s.getV x ≠ nn then s.pc + 4 else s.pc + 2) ∧
      ({} : Footprint).covers s t)

/-- R132, R133: the register skips; any N is accepted unless `STRICT_5_9`. -/
def Obligations.RegisterSkips : Prop :=
  ∀ x y, (∀ n, decodeWord false (wordXYN 0x5 x y n) = .instr (.seReg x y) ∧
      decodeWord false (wordXYN 0x9 x y n) = .instr (.sneReg x y) ∧
      (n ≠ 0 → (∃ r, decodeWord true (wordXYN 0x5 x y n) = .reject r) ∧
        ∃ r, decodeWord true (wordXYN 0x9 x y n) = .reject r)) ∧
    EncodesAs (wordXYN 0x5 x y 0) (.seReg x y) ∧ EncodesAs (wordXYN 0x9 x y 0) (.sneReg x y) ∧ ∀ s,
    (∃ t, exec (.seReg x y) s = .next t ∧ t.pc = (if s.getV x = s.getV y then s.pc + 4 else s.pc + 2) ∧
      ({} : Footprint).covers s t) ∧
    (∃ t, exec (.sneReg x y) s = .next t ∧ t.pc = (if s.getV x ≠ s.getV y then s.pc + 4 else s.pc + 2) ∧
      ({} : Footprint).covers s t)

/-! ### Register and immediate (spec/42_register_immediate.md) -/

/-- R140, R141: the immediate is loaded, or added mod 256 with no flag. -/
def Obligations.ImmediateWrites : Prop :=
  ∀ x nn, EncodesAs (wordXNN 0x6 x nn) (.ldByte x nn) ∧ EncodesAs (wordXNN 0x7 x nn) (.addByte x nn) ∧ ∀ s,
    (∃ t, exec (.ldByte x nn) s = .next t ∧ t.getV x = nn ∧ t.pc = s.pc + 2 ∧
      ({ regs := [x] } : Footprint).covers s t) ∧
    (∃ t, exec (.addByte x nn) s = .next t ∧ (t.getV x).toNat = ((s.getV x).toNat + nn.toNat) % 256 ∧
      t.pc = s.pc + 2 ∧ ({ regs := [x] } : Footprint).covers s t)

/-! ### The ALU (spec/43_alu.md) -/

/-- R151 to R154: copy and bitwise operations write Vx alone; VF is unchanged unless it is Vx. -/
def Obligations.CopyAndBitwise : Prop :=
  ∀ x y, EncodesAs (wordXYN 0x8 x y 0x0) (.ldReg x y) ∧ EncodesAs (wordXYN 0x8 x y 0x1) (.orReg x y) ∧
    EncodesAs (wordXYN 0x8 x y 0x2) (.andReg x y) ∧ EncodesAs (wordXYN 0x8 x y 0x3) (.xorReg x y) ∧ ∀ s,
    (∃ t, exec (.ldReg x y) s = .next t ∧ t.getV x = s.getV y ∧ t.pc = s.pc + 2 ∧
      ({ regs := [x] } : Footprint).covers s t) ∧
    (∃ t, exec (.orReg x y) s = .next t ∧
      (∀ b, (t.getV x).getLsbD b = ((s.getV x).getLsbD b || (s.getV y).getLsbD b)) ∧ t.pc = s.pc + 2 ∧
      ({ regs := [x] } : Footprint).covers s t) ∧
    (∃ t, exec (.andReg x y) s = .next t ∧
      (∀ b, (t.getV x).getLsbD b = ((s.getV x).getLsbD b && (s.getV y).getLsbD b)) ∧ t.pc = s.pc + 2 ∧
      ({ regs := [x] } : Footprint).covers s t) ∧
    (∃ t, exec (.xorReg x y) s = .next t ∧
      (∀ b, (t.getV x).getLsbD b = ((s.getV x).getLsbD b ^^ (s.getV y).getLsbD b)) ∧ t.pc = s.pc + 2 ∧
      ({ regs := [x] } : Footprint).covers s t)

/-- R155: the sum mod 256, and VF the carry of the exact sum. -/
def Obligations.AddSetsCarry : Prop :=
  ∀ x y, EncodesAs (wordXYN 0x8 x y 0x4) (.addReg x y) ∧ ∀ s, ∃ t, exec (.addReg x y) s = .next t ∧
    FlagWrite s t x (((s.getV x).toNat + (s.getV y).toNat) % 256)
      (if (s.getV x).toNat + (s.getV y).toNat > 255 then 1 else 0)

/-- R156: Vx - Vy mod 256, and VF 1 exactly when Vx >= Vy. -/
def Obligations.SubSetsNoBorrow : Prop :=
  ∀ x y, EncodesAs (wordXYN 0x8 x y 0x5) (.sub x y) ∧ ∀ s, ∃ t, exec (.sub x y) s = .next t ∧
    FlagWrite s t x (((s.getV x).toNat + 256 - (s.getV y).toNat) % 256)
      (if (s.getV x).toNat ≥ (s.getV y).toNat then 1 else 0)

/-- R157: the source halved, and VF its bit 0. -/
def Obligations.ShrDropsBitZero : Prop :=
  ∀ x y, EncodesAs (wordXYN 0x8 x y 0x6) (.shr x y) ∧ ∀ s, ∃ t, exec (.shr x y) s = .next t ∧
    FlagWrite s t x (shifted s x y / 2) (shifted s x y % 2)

/-- R158: Vy - Vx mod 256, and VF 1 exactly when Vy >= Vx. -/
def Obligations.SubnSetsNoBorrow : Prop :=
  ∀ x y, EncodesAs (wordXYN 0x8 x y 0x7) (.subn x y) ∧ ∀ s, ∃ t, exec (.subn x y) s = .next t ∧
    FlagWrite s t x (((s.getV y).toNat + 256 - (s.getV x).toNat) % 256)
      (if (s.getV y).toNat ≥ (s.getV x).toNat then 1 else 0)

/-- R159: the source doubled mod 256, and VF its bit 7. -/
def Obligations.ShlDropsBitSeven : Prop :=
  ∀ x y, EncodesAs (wordXYN 0x8 x y 0xE) (.shl x y) ∧ ∀ s, ∃ t, exec (.shl x y) s = .next t ∧
    FlagWrite s t x (shifted s x y * 2 % 256) (shifted s x y / 128)

/-- The two rules on VF of spec/10_state.md: an instruction that is not one of the six flag writers changes VF only as
the destination it names, which for `LD Vx,[I]` is X = F (R22); a flag written is exactly 0 or 1 wherever the flag is
what VF ends holding (R23). -/
def Obligations.OnlyFlagWritersTouchVF : Prop :=
  ∀ i s t, exec i s = .next t →
    (writesFlag i = false → vf ∉ (footprint i s).regs → t.getV vf = s.getV vf) ∧
    (writesFlag i = true → s.cfg.flagLast = true ∨ resultIsVF i = false → t.getV vf = 0 ∨ t.getV vf = 1)

/-! ### Index and random (spec/44_index_random.md) -/

/-- R180, R181: I becomes the address, or gains Vx mod 2^16, with no flag. -/
def Obligations.IndexWrites : Prop :=
  (∀ nnn, EncodesAs (wordNNN 0xA nnn) (.ldI nnn) ∧ ∀ s, ∃ t, exec (.ldI nnn) s = .next t ∧
    t.ireg.toNat = nnn.toNat ∧ t.pc = s.pc + 2 ∧ ({ index := true } : Footprint).covers s t) ∧
  (∀ x, EncodesAs (wordXNN 0xF x 0x1E) (.addI x) ∧ ∀ s, ∃ t, exec (.addI x) s = .next t ∧
    t.ireg.toNat = (s.ireg.toNat + (s.getV x).toNat) % 65536 ∧ t.pc = s.pc + 2 ∧
    ({ index := true } : Footprint).covers s t)

/-- R182 over the free value of log 5: one draw is consumed and masked; the statement holds for every value of the
draw counter, so for every byte drawn. -/
def Obligations.RndMasksOneFreshDraw : Prop :=
  ∀ x nn, EncodesAs (wordXNN 0xC x nn) (.rnd x nn) ∧ ∀ s, ∃ t, exec (.rnd x nn) s = .next t ∧
    t.getV x = Config.randDraw s.draws &&& nn ∧ t.draws = s.draws + 1 ∧ t.pc = s.pc + 2 ∧
    ({ regs := [x], draw := true } : Footprint).covers s t

/-! ### The pixel engine and DRW (spec/45_draw_framebuffer.md) -/

/-- R193, which the spec marks as its own inference (derived: from rules R190 and R192): the closed form of a draw of at
most 15 rows. A pixel is toggled exactly when a 1 bit of the sprite maps to
it, with both coordinates wrapped, and the draw collides exactly when a 1 bit met a pixel that was 1 before. -/
def Obligations.DrawHasItsClosedForm : Prop :=
  ∀ (fb : Framebuffer) (x0 y0 : Byte) (rows : List Byte), rows.length ≤ 15 →
    (∀ x y, (SpriteCovers x0 y0 rows x y → pixel (fbDraw fb x0 y0 rows).1 x y = !pixel fb x y) ∧
      (¬ SpriteCovers x0 y0 rows x y → pixel (fbDraw fb x0 y0 rows).1 x y = pixel fb x y)) ∧
    ((fbDraw fb x0 y0 rows).2 = true ↔ ∃ x y, SpriteCovers x0 y0 rows x y ∧ pixel fb x y = true)

/-- R198, which the spec marks as its own inference (derived: from rules R192 and R193): drawing the same sprite twice restores the framebuffer, and the second draw collides exactly when a 1 bit of
the sprite maps to a pixel that was 0. -/
def Obligations.DrawingTwiceRestores : Prop :=
  ∀ (fb : Framebuffer) (x0 y0 : Byte) (rows : List Byte), rows.length ≤ 15 →
    (fbDraw (fbDraw fb x0 y0 rows).1 x0 y0 rows).1 = fb ∧
    ((fbDraw (fbDraw fb x0 y0 rows).1 x0 y0 rows).2 = true ↔
      ∃ x y, SpriteCovers x0 y0 rows x y ∧ pixel fb x y = false)

/-- R194, which the spec marks as its own inference (derived: from rule R190 and R5): within one draw no pixel is
addressed twice. -/
def Obligations.NoPixelIsDrawnTwice : Prop :=
  ∀ (x0 y0 : Byte) (r r' b b' : Nat), r < 15 → r' < 15 → b < 8 → b' < 8 →
    pixelColumn x0 b = pixelColumn x0 b' → pixelRow y0 r = pixelRow y0 r' → r = r' ∧ b = b'

/-- R195 and R196 (log 6: the stream is kept in State): `DRW` draws the N bytes from I, sets VF to the collision, emits
one `Present` of the result after the events emitted before, and leaves I; a sprite byte that does not exist raises `MemoryBounds` of the lowest one. -/
def Obligations.DrwDrawsTheSpriteAtI : Prop :=
  ∀ x y n, EncodesAs (wordXYN 0xD x y n) (.drw x y n) ∧ ∀ s,
    (n.toNat = 0 ∨ s.ireg.toNat + n.toNat ≤ 4096 → ∃ t rows, exec (.drw x y n) s = .next t ∧ SpriteRows s n.toNat rows ∧
      t.fb = (fbDraw s.fb (s.getV x) (s.getV y) rows).1 ∧
      t.getV vf = (if (fbDraw s.fb (s.getV x) (s.getV y) rows).2 = true then 1 else 0) ∧
      t.events = s.events ++ [.present t.fb] ∧ t.pc = s.pc + 2 ∧
      ({ regs := [vf], screen := true } : Footprint).covers s t) ∧
    (n.toNat ≠ 0 → s.ireg.toNat + n.toNat > 4096 →
      exec (.drw x y n) s = .fault (.memoryBounds s.pc (max s.ireg.toNat 4096)))

/-! ### Keys (spec/46_key.md) -/

/-- R221, R222: `SKP` skips exactly when a key is held whose code is the whole value of Vx, `SKNP` exactly when not. -/
def Obligations.KeySkips : Prop :=
  ∀ x, EncodesAs (wordXNN 0xE x 0x9E) (.skp x) ∧ EncodesAs (wordXNN 0xE x 0xA1) (.sknp x) ∧ ∀ s,
    ∃ t u, exec (.skp x) s = .next t ∧ exec (.sknp x) s = .next u ∧
      ((∃ k, s.keySlot = some k ∧ k.toNat = (s.getV x).toNat) → t.pc = s.pc + 4 ∧ u.pc = s.pc + 2) ∧
      ((∀ k, s.keySlot = some k → k.toNat ≠ (s.getV x).toNat) → t.pc = s.pc + 2 ∧ u.pc = s.pc + 4) ∧
      ({} : Footprint).covers s t ∧ ({} : Footprint).covers s u

/-- R223: wait-for-key under each `KEY_WAIT`. -/
def Obligations.WaitForKey : Prop :=
  ∀ x, EncodesAs (wordXNN 0xF x 0x0A) (.ldVxK x) ∧ ∀ s, ∃ t, exec (.ldVxK x) s = .next t ∧
    (s.cfg.keyWait = .nop → t.pc = s.pc + 2 ∧ ({} : Footprint).covers s t) ∧
    (s.cfg.keyWait = .block → s.keySlot = none → t = s) ∧
    (∀ k, s.cfg.keyWait = .block → s.keySlot = some k →
      (t.getV x).toNat = k.toNat ∧ t.pc = s.pc + 2 ∧ ({ regs := [x] } : Footprint).covers s t)

/-! ### Timers, glyphs, BCD, block transfer (spec/47_timers_memory.md) -/

/-- R230: the value read is DT before this cycle's tick. -/
def Obligations.LdVxDtReadsBeforeTheTick : Prop :=
  ∀ x, EncodesAs (wordXNN 0xF x 0x07) (.ldVxDt x) ∧ ∀ s, ∃ t, exec (.ldVxDt x) s = .next t ∧
    t.getV x = s.dt ∧ t.pc = s.pc + 2 ∧ ({ regs := [x] } : Footprint).covers s t ∧
    t.tick.getV x = s.dt ∧ t.tick.dt.toNat = s.dt.toNat - 1

/-- R231, R232: the timer writes, before the tick of their own cycle. -/
def Obligations.TimerWrites : Prop :=
  ∀ x, EncodesAs (wordXNN 0xF x 0x15) (.ldDtVx x) ∧ EncodesAs (wordXNN 0xF x 0x18) (.ldStVx x) ∧ ∀ s,
    (∃ t, exec (.ldDtVx x) s = .next t ∧ t.dt = s.getV x ∧ t.pc = s.pc + 2 ∧
      ({ delay := true } : Footprint).covers s t) ∧
    (∃ t, exec (.ldStVx x) s = .next t ∧ t.st = s.getV x ∧ t.pc = s.pc + 2 ∧
      ({ sound := true } : Footprint).covers s t)

/-- The corner of R231 and R232, which the spec marks as its own inference (derived: from rule R231, rule R237 and R90):
the step that writes a counter also ticks it, so it leaves one less than Vx, or 0 for Vx = 0. -/
def Obligations.WrittenCounterTicksInItsOwnCycle : Prop :=
  ∀ (s : State) (x : RegIdx), s.fault = none → s.pc.toNat + 1 < 4096 →
    (decodeAtPC s = (.instr (.ldDtVx x), []) → ∃ t, step s = .next t ∧ t.dt.toNat = (s.getV x).toNat - 1) ∧
    (decodeAtPC s = (.instr (.ldStVx x), []) → ∃ t, step s = .next t ∧ t.st.toNat = (s.getV x).toNat - 1)

/-- R237: every cycle that completes, whatever its instruction, takes one from each nonzero counter after execute, and
neither goes below 0; a cycle that faults ticks nothing. -/
def Obligations.EveryCompletedCycleTicksOnce : Prop :=
  (∀ s t i u, decodeAtPC s = (.instr i, []) → exec i s = .next u → step s = .next t →
    t.dt.toNat = u.dt.toNat - 1 ∧ t.st.toNat = u.st.toNat - 1 ∧
    ((∀ x, i ≠ .ldDtVx x) → t.dt.toNat = s.dt.toNat - 1) ∧
    ((∀ x, i ≠ .ldStVx x) → t.st.toNat = s.st.toNat - 1)) ∧
  ∀ (s : State) (f : Fault), s.runCycle.2 = .faulted f → s.runCycle.1.dt = s.dt ∧ s.runCycle.1.st = s.st

/-- R233: I becomes 5 * Vx, or `RangeError` at 16 and above. -/
def Obligations.LdFPointsAtTheGlyph : Prop :=
  ∀ x, EncodesAs (wordXNN 0xF x 0x29) (.ldF x) ∧ ∀ s,
    ((s.getV x).toNat ≥ 16 → exec (.ldF x) s = .fault (.rangeError s.pc (s.getV x))) ∧
    ((s.getV x).toNat < 16 → ∃ t, exec (.ldF x) s = .next t ∧ t.ireg.toNat = 5 * (s.getV x).toNat ∧
      t.pc = s.pc + 2 ∧ ({ index := true } : Footprint).covers s t)

/-- R234: the three decimal digits of Vx at I, I + 1 and I + 2, and no other byte; I is unchanged. -/
def Obligations.LdBStoresThreeDigits : Prop :=
  ∀ x, EncodesAs (wordXNN 0xF x 0x33) (.ldB x) ∧ ∀ s,
    (s.ireg.toNat + 2 < 4096 → ∃ t, exec (.ldB x) s = .next t ∧
      (t.mem.read s.ireg.toNat).toNat = (s.getV x).toNat / 100 ∧
      (t.mem.read (s.ireg.toNat + 1)).toNat = (s.getV x).toNat / 10 % 10 ∧
      (t.mem.read (s.ireg.toNat + 2)).toNat = (s.getV x).toNat % 10 ∧
      t.pc = s.pc + 2 ∧ ({ bytes := byteRange s.ireg.toNat 3 } : Footprint).covers s t) ∧
    (s.ireg.toNat + 2 ≥ 4096 → exec (.ldB x) s = .fault (.memoryBounds s.pc (max s.ireg.toNat 4096)))

/-- R235: V0 to Vx in memory from I up, and no other byte; then I advances by X + 1. -/
def Obligations.BlockStore : Prop :=
  ∀ x, EncodesAs (wordXNN 0xF x 0x55) (.stBlock x) ∧ ∀ s,
    (s.ireg.toNat + x.val < 4096 → ∃ t, exec (.stBlock x) s = .next t ∧
      (∀ k, k ≤ x → t.mem.read (s.ireg.toNat + k.val) = s.getV k) ∧
      t.ireg.toNat = (s.ireg.toNat + x.val + 1) % 65536 ∧ t.pc = s.pc + 2 ∧
      ({ bytes := byteRange s.ireg.toNat (x.val + 1), index := true } : Footprint).covers s t) ∧
    (s.ireg.toNat + x.val ≥ 4096 → exec (.stBlock x) s = .fault (.memoryBounds s.pc (max s.ireg.toNat 4096)))

/-- R236: V0 to Vx from memory from I up; then I advances by X + 1; no other register changes. -/
def Obligations.BlockLoad : Prop :=
  ∀ x, EncodesAs (wordXNN 0xF x 0x65) (.ldBlock x) ∧ ∀ s,
    (s.ireg.toNat + x.val < 4096 → ∃ t, exec (.ldBlock x) s = .next t ∧
      (∀ k, k ≤ x → t.getV k = s.mem.read (s.ireg.toNat + k.val)) ∧
      (∀ k, x < k → t.getV k = s.getV k) ∧
      t.ireg.toNat = (s.ireg.toNat + x.val + 1) % 65536 ∧ t.pc = s.pc + 2 ∧
      ({ regs := (List.finRange 16).filter (· ≤ x), index := true } : Footprint).covers s t) ∧
    (s.ireg.toNat + x.val ≥ 4096 → exec (.ldBlock x) s = .fault (.memoryBounds s.pc (max s.ireg.toNat 4096)))

/-! ### Rules about the whole machine -/

/-- The frame of all 35 instructions: what is outside an instruction's footprint is unchanged. -/
def Obligations.EveryInstructionKeepsItsFrame : Prop :=
  ∀ i s t, exec i s = .next t → (footprint i s).covers s t

/-- Only `CLS` and `DRW` write the framebuffer (spec/10_state.md R30), only `LD B,Vx` and `LD [I],Vx` write memory
(spec/20_memory.md R62), only `CALL` and `RET` move the stack (R26), and no instruction but those writes them in a whole
step. -/
def Obligations.OnlyNamedInstructionsWriteMemoryScreenAndStack : Prop :=
  ∀ s t i, decodeAtPC s = (.instr i, []) → step s = .next t →
    (t.fb ≠ s.fb → i = .cls ∨ ∃ x y n, i = .drw x y n) ∧
    (t.mem ≠ s.mem → (∃ x, i = .ldB x) ∨ ∃ x, i = .stBlock x) ∧
    (t.sp ≠ s.sp ∨ t.stack ≠ s.stack → i = .ret ∨ ∃ nnn, i = .call nnn)

/-- The PC-advance classes of spec/30_encoding.md R91: the class belongs to the instruction. Jumps are stated with
their targets above. -/
def Obligations.PcMovesByClass : Prop :=
  ∀ i s t, exec i s = .next t →
    (pcClass i = .next → t.pc = s.pc + 2) ∧
    (pcClass i = .skip → t.pc = s.pc + 2 ∨ t.pc = s.pc + 4) ∧
    (pcClass i = .wait → t.pc = s.pc + 2 ∨
      (t.pc = s.pc ∧ s.cfg.keyWait = .block ∧ s.keySlot = none))

/-- ST is not observable, the inference of spec/10_state.md R37, which the spec marks as its own (derived: from rule R20 and
the instruction rules of 40–47). It rests on log 5, the model's choice: the two machines are given the same `RAND` draws,
since they hold one value of the draw counter. Two machines that differ in ST alone differ in ST alone after any
moves of the host, and every step of theirs ends the same way. -/
def Obligations.SoundCounterIsUnobservable : Prop :=
  ∀ (s : State) (b : Byte),
    withoutSound (step { s with st := b }) = withoutSound (step s) ∧
    ∀ moves, { ({ s with st := b } : State).hostRun moves with st := 0 } = { s.hostRun moves with st := 0 }

/-- The pressed key is observed only through `SKP`, `SKNP` and `LD Vx,K`, the inference of spec/10_state.md R37, which the
spec marks as its own (derived: from rule R20 and the instruction rules of 40–47): any other instruction does the same
whatever key is held. `RND` does by log 5, the model's choice: both executions are given the same `RAND` draw, since they
hold one value of the draw counter. That `LD Vx,K` ignores the key under `KEY_WAIT` = `NOP` is stated in `WaitForKey`. -/
def Obligations.KeyIsSeenOnlyByKeyInstructions : Prop :=
  ∀ i s k, (∀ x, i ≠ .skp x) → (∀ x, i ≠ .sknp x) → (∀ x, i ≠ .ldVxK x) →
    exec i { s with keySlot := k } = withKey k (exec i s)

/-- Two memories in canonical form that read the same at every address are the same data (log 4). -/
def Obligations.MemoryIsDeterminedByItsBytes : Prop :=
  ∀ m n : Memory, m.wf → n.wf → (∀ a, m.read a = n.read a) → m = n

/-- The fetch after a cycle sees every write that cycle made (spec/20_memory.md R73, which the spec marks as its own
inference: derived: from rule R70; one memory holds code and data, §3; decision D35). After a step of any instruction a
fetch at any address reads, high byte first, the bytes the step stored (`LD B,Vx`, `LD [I],Vx`) and the bytes before it
everywhere else; so, step by step, it sees the writes of every cycle before it. -/
def Obligations.StoredBytesAreFetched : Prop :=
  ∀ i s t, decodeAtPC s = (.instr i, []) → step s = .next t → ∀ p : Word, p.toNat + 1 < 4096 →
    ({ t with pc := p } : State).fetch =
      .ok (wordOfBytes (overlaid s.mem s.ireg.toNat (storedBytes i s) p.toNat)
        (overlaid s.mem s.ireg.toNat (storedBytes i s) (p.toNat + 1)))
end

