-- ==== Sys2Proof/Laws/State.lean ====
section
/-! SUPPORT. What every state update does to every field: one lemma per field per update, so that no proof unfolds a
record update. -/

namespace Sys2Proof.Machine

variable (s : State)

/-! ### latchFault -/

@[simp] theorem State.latchFault_cfg (f : Fault) : (s.latchFault f).cfg = s.cfg := rfl
@[simp] theorem State.latchFault_v (f : Fault) : (s.latchFault f).v = s.v := rfl
@[simp] theorem State.latchFault_ireg (f : Fault) : (s.latchFault f).ireg = s.ireg := rfl
@[simp] theorem State.latchFault_pc (f : Fault) : (s.latchFault f).pc = s.pc := rfl
@[simp] theorem State.latchFault_sp (f : Fault) : (s.latchFault f).sp = s.sp := rfl
@[simp] theorem State.latchFault_stack (f : Fault) : (s.latchFault f).stack = s.stack := rfl
@[simp] theorem State.latchFault_dt (f : Fault) : (s.latchFault f).dt = s.dt := rfl
@[simp] theorem State.latchFault_st (f : Fault) : (s.latchFault f).st = s.st := rfl
@[simp] theorem State.latchFault_mem (f : Fault) : (s.latchFault f).mem = s.mem := rfl
@[simp] theorem State.latchFault_fb (f : Fault) : (s.latchFault f).fb = s.fb := rfl
@[simp] theorem State.latchFault_keySlot (f : Fault) : (s.latchFault f).keySlot = s.keySlot := rfl
@[simp] theorem State.latchFault_fault (f : Fault) : (s.latchFault f).fault = some f := rfl
@[simp] theorem State.latchFault_events (f : Fault) : (s.latchFault f).events = s.events := rfl
@[simp] theorem State.latchFault_draws (f : Fault) : (s.latchFault f).draws = s.draws := rfl

/-! ### setV -/

@[simp] theorem State.setV_cfg (r : RegIdx) (b : Byte) : (s.setV r b).cfg = s.cfg := rfl
@[simp] theorem State.setV_v (r : RegIdx) (b : Byte) : (s.setV r b).v = s.v.set r b := rfl
@[simp] theorem State.setV_ireg (r : RegIdx) (b : Byte) : (s.setV r b).ireg = s.ireg := rfl
@[simp] theorem State.setV_pc (r : RegIdx) (b : Byte) : (s.setV r b).pc = s.pc := rfl
@[simp] theorem State.setV_sp (r : RegIdx) (b : Byte) : (s.setV r b).sp = s.sp := rfl
@[simp] theorem State.setV_stack (r : RegIdx) (b : Byte) : (s.setV r b).stack = s.stack := rfl
@[simp] theorem State.setV_dt (r : RegIdx) (b : Byte) : (s.setV r b).dt = s.dt := rfl
@[simp] theorem State.setV_st (r : RegIdx) (b : Byte) : (s.setV r b).st = s.st := rfl
@[simp] theorem State.setV_mem (r : RegIdx) (b : Byte) : (s.setV r b).mem = s.mem := rfl
@[simp] theorem State.setV_fb (r : RegIdx) (b : Byte) : (s.setV r b).fb = s.fb := rfl
@[simp] theorem State.setV_keySlot (r : RegIdx) (b : Byte) : (s.setV r b).keySlot = s.keySlot := rfl
@[simp] theorem State.setV_fault (r : RegIdx) (b : Byte) : (s.setV r b).fault = s.fault := rfl
@[simp] theorem State.setV_events (r : RegIdx) (b : Byte) : (s.setV r b).events = s.events := rfl
@[simp] theorem State.setV_draws (r : RegIdx) (b : Byte) : (s.setV r b).draws = s.draws := rfl

/-! ### loadRegs -/

@[simp] theorem State.loadRegs_cfg (vals : List Byte) : (s.loadRegs vals).cfg = s.cfg := rfl
@[simp] theorem State.loadRegs_v (vals : List Byte) : (s.loadRegs vals).v = regsFrom s.v 0 vals := rfl
@[simp] theorem State.loadRegs_ireg (vals : List Byte) : (s.loadRegs vals).ireg = s.ireg := rfl
@[simp] theorem State.loadRegs_pc (vals : List Byte) : (s.loadRegs vals).pc = s.pc := rfl
@[simp] theorem State.loadRegs_sp (vals : List Byte) : (s.loadRegs vals).sp = s.sp := rfl
@[simp] theorem State.loadRegs_stack (vals : List Byte) : (s.loadRegs vals).stack = s.stack := rfl
@[simp] theorem State.loadRegs_dt (vals : List Byte) : (s.loadRegs vals).dt = s.dt := rfl
@[simp] theorem State.loadRegs_st (vals : List Byte) : (s.loadRegs vals).st = s.st := rfl
@[simp] theorem State.loadRegs_mem (vals : List Byte) : (s.loadRegs vals).mem = s.mem := rfl
@[simp] theorem State.loadRegs_fb (vals : List Byte) : (s.loadRegs vals).fb = s.fb := rfl
@[simp] theorem State.loadRegs_keySlot (vals : List Byte) : (s.loadRegs vals).keySlot = s.keySlot := rfl
@[simp] theorem State.loadRegs_fault (vals : List Byte) : (s.loadRegs vals).fault = s.fault := rfl
@[simp] theorem State.loadRegs_events (vals : List Byte) : (s.loadRegs vals).events = s.events := rfl
@[simp] theorem State.loadRegs_draws (vals : List Byte) : (s.loadRegs vals).draws = s.draws := rfl

/-! ### setI -/

@[simp] theorem State.setI_cfg (w : Word) : (s.setI w).cfg = s.cfg := rfl
@[simp] theorem State.setI_v (w : Word) : (s.setI w).v = s.v := rfl
@[simp] theorem State.setI_ireg (w : Word) : (s.setI w).ireg = w := rfl
@[simp] theorem State.setI_pc (w : Word) : (s.setI w).pc = s.pc := rfl
@[simp] theorem State.setI_sp (w : Word) : (s.setI w).sp = s.sp := rfl
@[simp] theorem State.setI_stack (w : Word) : (s.setI w).stack = s.stack := rfl
@[simp] theorem State.setI_dt (w : Word) : (s.setI w).dt = s.dt := rfl
@[simp] theorem State.setI_st (w : Word) : (s.setI w).st = s.st := rfl
@[simp] theorem State.setI_mem (w : Word) : (s.setI w).mem = s.mem := rfl
@[simp] theorem State.setI_fb (w : Word) : (s.setI w).fb = s.fb := rfl
@[simp] theorem State.setI_keySlot (w : Word) : (s.setI w).keySlot = s.keySlot := rfl
@[simp] theorem State.setI_fault (w : Word) : (s.setI w).fault = s.fault := rfl
@[simp] theorem State.setI_events (w : Word) : (s.setI w).events = s.events := rfl
@[simp] theorem State.setI_draws (w : Word) : (s.setI w).draws = s.draws := rfl

/-! ### setDT -/

@[simp] theorem State.setDT_cfg (b : Byte) : (s.setDT b).cfg = s.cfg := rfl
@[simp] theorem State.setDT_v (b : Byte) : (s.setDT b).v = s.v := rfl
@[simp] theorem State.setDT_ireg (b : Byte) : (s.setDT b).ireg = s.ireg := rfl
@[simp] theorem State.setDT_pc (b : Byte) : (s.setDT b).pc = s.pc := rfl
@[simp] theorem State.setDT_sp (b : Byte) : (s.setDT b).sp = s.sp := rfl
@[simp] theorem State.setDT_stack (b : Byte) : (s.setDT b).stack = s.stack := rfl
@[simp] theorem State.setDT_dt (b : Byte) : (s.setDT b).dt = b := rfl
@[simp] theorem State.setDT_st (b : Byte) : (s.setDT b).st = s.st := rfl
@[simp] theorem State.setDT_mem (b : Byte) : (s.setDT b).mem = s.mem := rfl
@[simp] theorem State.setDT_fb (b : Byte) : (s.setDT b).fb = s.fb := rfl
@[simp] theorem State.setDT_keySlot (b : Byte) : (s.setDT b).keySlot = s.keySlot := rfl
@[simp] theorem State.setDT_fault (b : Byte) : (s.setDT b).fault = s.fault := rfl
@[simp] theorem State.setDT_events (b : Byte) : (s.setDT b).events = s.events := rfl
@[simp] theorem State.setDT_draws (b : Byte) : (s.setDT b).draws = s.draws := rfl

/-! ### setST -/

@[simp] theorem State.setST_cfg (b : Byte) : (s.setST b).cfg = s.cfg := rfl
@[simp] theorem State.setST_v (b : Byte) : (s.setST b).v = s.v := rfl
@[simp] theorem State.setST_ireg (b : Byte) : (s.setST b).ireg = s.ireg := rfl
@[simp] theorem State.setST_pc (b : Byte) : (s.setST b).pc = s.pc := rfl
@[simp] theorem State.setST_sp (b : Byte) : (s.setST b).sp = s.sp := rfl
@[simp] theorem State.setST_stack (b : Byte) : (s.setST b).stack = s.stack := rfl
@[simp] theorem State.setST_dt (b : Byte) : (s.setST b).dt = s.dt := rfl
@[simp] theorem State.setST_st (b : Byte) : (s.setST b).st = b := rfl
@[simp] theorem State.setST_mem (b : Byte) : (s.setST b).mem = s.mem := rfl
@[simp] theorem State.setST_fb (b : Byte) : (s.setST b).fb = s.fb := rfl
@[simp] theorem State.setST_keySlot (b : Byte) : (s.setST b).keySlot = s.keySlot := rfl
@[simp] theorem State.setST_fault (b : Byte) : (s.setST b).fault = s.fault := rfl
@[simp] theorem State.setST_events (b : Byte) : (s.setST b).events = s.events := rfl
@[simp] theorem State.setST_draws (b : Byte) : (s.setST b).draws = s.draws := rfl

/-! ### setMem -/

@[simp] theorem State.setMem_cfg (m : Memory) : (s.setMem m).cfg = s.cfg := rfl
@[simp] theorem State.setMem_v (m : Memory) : (s.setMem m).v = s.v := rfl
@[simp] theorem State.setMem_ireg (m : Memory) : (s.setMem m).ireg = s.ireg := rfl
@[simp] theorem State.setMem_pc (m : Memory) : (s.setMem m).pc = s.pc := rfl
@[simp] theorem State.setMem_sp (m : Memory) : (s.setMem m).sp = s.sp := rfl
@[simp] theorem State.setMem_stack (m : Memory) : (s.setMem m).stack = s.stack := rfl
@[simp] theorem State.setMem_dt (m : Memory) : (s.setMem m).dt = s.dt := rfl
@[simp] theorem State.setMem_st (m : Memory) : (s.setMem m).st = s.st := rfl
@[simp] theorem State.setMem_mem (m : Memory) : (s.setMem m).mem = m := rfl
@[simp] theorem State.setMem_fb (m : Memory) : (s.setMem m).fb = s.fb := rfl
@[simp] theorem State.setMem_keySlot (m : Memory) : (s.setMem m).keySlot = s.keySlot := rfl
@[simp] theorem State.setMem_fault (m : Memory) : (s.setMem m).fault = s.fault := rfl
@[simp] theorem State.setMem_events (m : Memory) : (s.setMem m).events = s.events := rfl
@[simp] theorem State.setMem_draws (m : Memory) : (s.setMem m).draws = s.draws := rfl

/-! ### setFb -/

@[simp] theorem State.setFb_cfg (fb : Framebuffer) : (s.setFb fb).cfg = s.cfg := rfl
@[simp] theorem State.setFb_v (fb : Framebuffer) : (s.setFb fb).v = s.v := rfl
@[simp] theorem State.setFb_ireg (fb : Framebuffer) : (s.setFb fb).ireg = s.ireg := rfl
@[simp] theorem State.setFb_pc (fb : Framebuffer) : (s.setFb fb).pc = s.pc := rfl
@[simp] theorem State.setFb_sp (fb : Framebuffer) : (s.setFb fb).sp = s.sp := rfl
@[simp] theorem State.setFb_stack (fb : Framebuffer) : (s.setFb fb).stack = s.stack := rfl
@[simp] theorem State.setFb_dt (fb : Framebuffer) : (s.setFb fb).dt = s.dt := rfl
@[simp] theorem State.setFb_st (fb : Framebuffer) : (s.setFb fb).st = s.st := rfl
@[simp] theorem State.setFb_mem (fb : Framebuffer) : (s.setFb fb).mem = s.mem := rfl
@[simp] theorem State.setFb_fb (fb : Framebuffer) : (s.setFb fb).fb = fb := rfl
@[simp] theorem State.setFb_keySlot (fb : Framebuffer) : (s.setFb fb).keySlot = s.keySlot := rfl
@[simp] theorem State.setFb_fault (fb : Framebuffer) : (s.setFb fb).fault = s.fault := rfl
@[simp] theorem State.setFb_events (fb : Framebuffer) : (s.setFb fb).events = s.events := rfl
@[simp] theorem State.setFb_draws (fb : Framebuffer) : (s.setFb fb).draws = s.draws := rfl

/-! ### advance -/

@[simp] theorem State.advance_cfg : s.advance.cfg = s.cfg := rfl
@[simp] theorem State.advance_v : s.advance.v = s.v := rfl
@[simp] theorem State.advance_ireg : s.advance.ireg = s.ireg := rfl
@[simp] theorem State.advance_pc : s.advance.pc = s.pc + 2 := rfl
@[simp] theorem State.advance_sp : s.advance.sp = s.sp := rfl
@[simp] theorem State.advance_stack : s.advance.stack = s.stack := rfl
@[simp] theorem State.advance_dt : s.advance.dt = s.dt := rfl
@[simp] theorem State.advance_st : s.advance.st = s.st := rfl
@[simp] theorem State.advance_mem : s.advance.mem = s.mem := rfl
@[simp] theorem State.advance_fb : s.advance.fb = s.fb := rfl
@[simp] theorem State.advance_keySlot : s.advance.keySlot = s.keySlot := rfl
@[simp] theorem State.advance_fault : s.advance.fault = s.fault := rfl
@[simp] theorem State.advance_events : s.advance.events = s.events := rfl
@[simp] theorem State.advance_draws : s.advance.draws = s.draws := rfl

/-! ### skipNext -/

@[simp] theorem State.skipNext_cfg : s.skipNext.cfg = s.cfg := rfl
@[simp] theorem State.skipNext_v : s.skipNext.v = s.v := rfl
@[simp] theorem State.skipNext_ireg : s.skipNext.ireg = s.ireg := rfl
@[simp] theorem State.skipNext_pc : s.skipNext.pc = s.pc + 4 := rfl
@[simp] theorem State.skipNext_sp : s.skipNext.sp = s.sp := rfl
@[simp] theorem State.skipNext_stack : s.skipNext.stack = s.stack := rfl
@[simp] theorem State.skipNext_dt : s.skipNext.dt = s.dt := rfl
@[simp] theorem State.skipNext_st : s.skipNext.st = s.st := rfl
@[simp] theorem State.skipNext_mem : s.skipNext.mem = s.mem := rfl
@[simp] theorem State.skipNext_fb : s.skipNext.fb = s.fb := rfl
@[simp] theorem State.skipNext_keySlot : s.skipNext.keySlot = s.keySlot := rfl
@[simp] theorem State.skipNext_fault : s.skipNext.fault = s.fault := rfl
@[simp] theorem State.skipNext_events : s.skipNext.events = s.events := rfl
@[simp] theorem State.skipNext_draws : s.skipNext.draws = s.draws := rfl

/-! ### jump -/

@[simp] theorem State.jump_cfg (t : Word) : (s.jump t).cfg = s.cfg := rfl
@[simp] theorem State.jump_v (t : Word) : (s.jump t).v = s.v := rfl
@[simp] theorem State.jump_ireg (t : Word) : (s.jump t).ireg = s.ireg := rfl
@[simp] theorem State.jump_pc (t : Word) : (s.jump t).pc = t := rfl
@[simp] theorem State.jump_sp (t : Word) : (s.jump t).sp = s.sp := rfl
@[simp] theorem State.jump_stack (t : Word) : (s.jump t).stack = s.stack := rfl
@[simp] theorem State.jump_dt (t : Word) : (s.jump t).dt = s.dt := rfl
@[simp] theorem State.jump_st (t : Word) : (s.jump t).st = s.st := rfl
@[simp] theorem State.jump_mem (t : Word) : (s.jump t).mem = s.mem := rfl
@[simp] theorem State.jump_fb (t : Word) : (s.jump t).fb = s.fb := rfl
@[simp] theorem State.jump_keySlot (t : Word) : (s.jump t).keySlot = s.keySlot := rfl
@[simp] theorem State.jump_fault (t : Word) : (s.jump t).fault = s.fault := rfl
@[simp] theorem State.jump_events (t : Word) : (s.jump t).events = s.events := rfl
@[simp] theorem State.jump_draws (t : Word) : (s.jump t).draws = s.draws := rfl

/-! ### stay -/

@[simp] theorem State.stay_cfg : s.stay.cfg = s.cfg := rfl
@[simp] theorem State.stay_v : s.stay.v = s.v := rfl
@[simp] theorem State.stay_ireg : s.stay.ireg = s.ireg := rfl
@[simp] theorem State.stay_pc : s.stay.pc = s.pc := rfl
@[simp] theorem State.stay_sp : s.stay.sp = s.sp := rfl
@[simp] theorem State.stay_stack : s.stay.stack = s.stack := rfl
@[simp] theorem State.stay_dt : s.stay.dt = s.dt := rfl
@[simp] theorem State.stay_st : s.stay.st = s.st := rfl
@[simp] theorem State.stay_mem : s.stay.mem = s.mem := rfl
@[simp] theorem State.stay_fb : s.stay.fb = s.fb := rfl
@[simp] theorem State.stay_keySlot : s.stay.keySlot = s.keySlot := rfl
@[simp] theorem State.stay_fault : s.stay.fault = s.fault := rfl
@[simp] theorem State.stay_events : s.stay.events = s.events := rfl
@[simp] theorem State.stay_draws : s.stay.draws = s.draws := rfl

/-! ### push -/

@[simp] theorem State.push_cfg (w : Word) : (s.push w).cfg = s.cfg := rfl
@[simp] theorem State.push_v (w : Word) : (s.push w).v = s.v := rfl
@[simp] theorem State.push_ireg (w : Word) : (s.push w).ireg = s.ireg := rfl
@[simp] theorem State.push_pc (w : Word) : (s.push w).pc = s.pc := rfl
@[simp] theorem State.push_sp (w : Word) : (s.push w).sp = s.sp + 1 := rfl
@[simp] theorem State.push_stack (w : Word) : (s.push w).stack = s.stack.setIfInBounds s.sp.toNat w := rfl
@[simp] theorem State.push_dt (w : Word) : (s.push w).dt = s.dt := rfl
@[simp] theorem State.push_st (w : Word) : (s.push w).st = s.st := rfl
@[simp] theorem State.push_mem (w : Word) : (s.push w).mem = s.mem := rfl
@[simp] theorem State.push_fb (w : Word) : (s.push w).fb = s.fb := rfl
@[simp] theorem State.push_keySlot (w : Word) : (s.push w).keySlot = s.keySlot := rfl
@[simp] theorem State.push_fault (w : Word) : (s.push w).fault = s.fault := rfl
@[simp] theorem State.push_events (w : Word) : (s.push w).events = s.events := rfl
@[simp] theorem State.push_draws (w : Word) : (s.push w).draws = s.draws := rfl

/-! ### pop -/

@[simp] theorem State.pop_cfg : s.pop.cfg = s.cfg := rfl
@[simp] theorem State.pop_v : s.pop.v = s.v := rfl
@[simp] theorem State.pop_ireg : s.pop.ireg = s.ireg := rfl
@[simp] theorem State.pop_pc : s.pop.pc = s.pc := rfl
@[simp] theorem State.pop_sp : s.pop.sp = s.sp - 1 := rfl
@[simp] theorem State.pop_stack : s.pop.stack = s.stack := rfl
@[simp] theorem State.pop_dt : s.pop.dt = s.dt := rfl
@[simp] theorem State.pop_st : s.pop.st = s.st := rfl
@[simp] theorem State.pop_mem : s.pop.mem = s.mem := rfl
@[simp] theorem State.pop_fb : s.pop.fb = s.fb := rfl
@[simp] theorem State.pop_keySlot : s.pop.keySlot = s.keySlot := rfl
@[simp] theorem State.pop_fault : s.pop.fault = s.fault := rfl
@[simp] theorem State.pop_events : s.pop.events = s.events := rfl
@[simp] theorem State.pop_draws : s.pop.draws = s.draws := rfl

/-! ### consumeDraw -/

@[simp] theorem State.consumeDraw_cfg : s.consumeDraw.cfg = s.cfg := rfl
@[simp] theorem State.consumeDraw_v : s.consumeDraw.v = s.v := rfl
@[simp] theorem State.consumeDraw_ireg : s.consumeDraw.ireg = s.ireg := rfl
@[simp] theorem State.consumeDraw_pc : s.consumeDraw.pc = s.pc := rfl
@[simp] theorem State.consumeDraw_sp : s.consumeDraw.sp = s.sp := rfl
@[simp] theorem State.consumeDraw_stack : s.consumeDraw.stack = s.stack := rfl
@[simp] theorem State.consumeDraw_dt : s.consumeDraw.dt = s.dt := rfl
@[simp] theorem State.consumeDraw_st : s.consumeDraw.st = s.st := rfl
@[simp] theorem State.consumeDraw_mem : s.consumeDraw.mem = s.mem := rfl
@[simp] theorem State.consumeDraw_fb : s.consumeDraw.fb = s.fb := rfl
@[simp] theorem State.consumeDraw_keySlot : s.consumeDraw.keySlot = s.keySlot := rfl
@[simp] theorem State.consumeDraw_fault : s.consumeDraw.fault = s.fault := rfl
@[simp] theorem State.consumeDraw_events : s.consumeDraw.events = s.events := rfl
@[simp] theorem State.consumeDraw_draws : s.consumeDraw.draws = s.draws + 1 := rfl

/-! ### emit -/

@[simp] theorem State.emit_cfg (es : List DisplayEvent) : (s.emit es).cfg = s.cfg := rfl
@[simp] theorem State.emit_v (es : List DisplayEvent) : (s.emit es).v = s.v := rfl
@[simp] theorem State.emit_ireg (es : List DisplayEvent) : (s.emit es).ireg = s.ireg := rfl
@[simp] theorem State.emit_pc (es : List DisplayEvent) : (s.emit es).pc = s.pc := rfl
@[simp] theorem State.emit_sp (es : List DisplayEvent) : (s.emit es).sp = s.sp := rfl
@[simp] theorem State.emit_stack (es : List DisplayEvent) : (s.emit es).stack = s.stack := rfl
@[simp] theorem State.emit_dt (es : List DisplayEvent) : (s.emit es).dt = s.dt := rfl
@[simp] theorem State.emit_st (es : List DisplayEvent) : (s.emit es).st = s.st := rfl
@[simp] theorem State.emit_mem (es : List DisplayEvent) : (s.emit es).mem = s.mem := rfl
@[simp] theorem State.emit_fb (es : List DisplayEvent) : (s.emit es).fb = s.fb := rfl
@[simp] theorem State.emit_keySlot (es : List DisplayEvent) : (s.emit es).keySlot = s.keySlot := rfl
@[simp] theorem State.emit_fault (es : List DisplayEvent) : (s.emit es).fault = s.fault := rfl
@[simp] theorem State.emit_events (es : List DisplayEvent) : (s.emit es).events = s.events ++ es := rfl
@[simp] theorem State.emit_draws (es : List DisplayEvent) : (s.emit es).draws = s.draws := rfl

/-! ### tick -/

@[simp] theorem State.tick_cfg : s.tick.cfg = s.cfg := rfl
@[simp] theorem State.tick_v : s.tick.v = s.v := rfl
@[simp] theorem State.tick_ireg : s.tick.ireg = s.ireg := rfl
@[simp] theorem State.tick_pc : s.tick.pc = s.pc := rfl
@[simp] theorem State.tick_sp : s.tick.sp = s.sp := rfl
@[simp] theorem State.tick_stack : s.tick.stack = s.stack := rfl
@[simp] theorem State.tick_dt : s.tick.dt = tickCounter s.dt := rfl
@[simp] theorem State.tick_st : s.tick.st = tickCounter s.st := rfl
@[simp] theorem State.tick_mem : s.tick.mem = s.mem := rfl
@[simp] theorem State.tick_fb : s.tick.fb = s.fb := rfl
@[simp] theorem State.tick_keySlot : s.tick.keySlot = s.keySlot := rfl
@[simp] theorem State.tick_fault : s.tick.fault = s.fault := rfl
@[simp] theorem State.tick_events : s.tick.events = s.events := rfl
@[simp] theorem State.tick_draws : s.tick.draws = s.draws := rfl

/-! ### keyPressed -/

@[simp] theorem State.keyPressed_cfg (k : Option Nibble) : (s.keyPressed k).cfg = s.cfg := rfl
@[simp] theorem State.keyPressed_v (k : Option Nibble) : (s.keyPressed k).v = s.v := rfl
@[simp] theorem State.keyPressed_ireg (k : Option Nibble) : (s.keyPressed k).ireg = s.ireg := rfl
@[simp] theorem State.keyPressed_pc (k : Option Nibble) : (s.keyPressed k).pc = s.pc := rfl
@[simp] theorem State.keyPressed_sp (k : Option Nibble) : (s.keyPressed k).sp = s.sp := rfl
@[simp] theorem State.keyPressed_stack (k : Option Nibble) : (s.keyPressed k).stack = s.stack := rfl
@[simp] theorem State.keyPressed_dt (k : Option Nibble) : (s.keyPressed k).dt = s.dt := rfl
@[simp] theorem State.keyPressed_st (k : Option Nibble) : (s.keyPressed k).st = s.st := rfl
@[simp] theorem State.keyPressed_mem (k : Option Nibble) : (s.keyPressed k).mem = s.mem := rfl
@[simp] theorem State.keyPressed_fb (k : Option Nibble) : (s.keyPressed k).fb = s.fb := rfl
@[simp] theorem State.keyPressed_keySlot (k : Option Nibble) : (s.keyPressed k).keySlot = k := rfl
@[simp] theorem State.keyPressed_fault (k : Option Nibble) : (s.keyPressed k).fault = s.fault := rfl
@[simp] theorem State.keyPressed_events (k : Option Nibble) : (s.keyPressed k).events = s.events := rfl
@[simp] theorem State.keyPressed_draws (k : Option Nibble) : (s.keyPressed k).draws = s.draws := rfl

/-! ### Reading a register after an update -/

theorem State.getV_eq (r : RegIdx) : s.getV r = s.v[r] := rfl

/-- A register read after a register write. -/
@[simp] theorem State.getV_setV (r : RegIdx) (b : Byte) (q : RegIdx) :
    (s.setV r b).getV q = if q = r then b else s.getV q := by
  simp only [State.getV, State.setV, Fin.getElem_fin, Vector.getElem_set, Fin.val_inj, eq_comm (a := r)]

@[simp] theorem State.getV_latchFault (f : Fault) (q : RegIdx) : (s.latchFault f).getV q = s.getV q := rfl
@[simp] theorem State.getV_setI (w : Word) (q : RegIdx) : (s.setI w).getV q = s.getV q := rfl
@[simp] theorem State.getV_setDT (b : Byte) (q : RegIdx) : (s.setDT b).getV q = s.getV q := rfl
@[simp] theorem State.getV_setST (b : Byte) (q : RegIdx) : (s.setST b).getV q = s.getV q := rfl
@[simp] theorem State.getV_setMem (m : Memory) (q : RegIdx) : (s.setMem m).getV q = s.getV q := rfl
@[simp] theorem State.getV_setFb (fb : Framebuffer) (q : RegIdx) : (s.setFb fb).getV q = s.getV q := rfl
@[simp] theorem State.getV_advance (q : RegIdx) : s.advance.getV q = s.getV q := rfl
@[simp] theorem State.getV_skipNext (q : RegIdx) : s.skipNext.getV q = s.getV q := rfl
@[simp] theorem State.getV_jump (t : Word) (q : RegIdx) : (s.jump t).getV q = s.getV q := rfl
@[simp] theorem State.getV_stay (q : RegIdx) : s.stay.getV q = s.getV q := rfl
@[simp] theorem State.getV_push (w : Word) (q : RegIdx) : (s.push w).getV q = s.getV q := rfl
@[simp] theorem State.getV_pop (q : RegIdx) : s.pop.getV q = s.getV q := rfl
@[simp] theorem State.getV_consumeDraw (q : RegIdx) : s.consumeDraw.getV q = s.getV q := rfl
@[simp] theorem State.getV_emit (es : List DisplayEvent) (q : RegIdx) : (s.emit es).getV q = s.getV q := rfl
@[simp] theorem State.getV_tick (q : RegIdx) : s.tick.getV q = s.getV q := rfl
@[simp] theorem State.getV_keyPressed (k : Option Nibble) (q : RegIdx) : (s.keyPressed k).getV q = s.getV q := rfl

/-! ### The conditional skip and the flag-setting write -/

/-- A skip adds 4 when its condition holds and 2 otherwise. -/
theorem State.skipIf_pc (c : Bool) : (s.skipIf c).pc = if c then s.pc + 4 else s.pc + 2 := by
  cases c <;> rfl

@[simp] theorem State.skipIf_cfg (c : Bool) : (s.skipIf c).cfg = s.cfg := by cases c <;> rfl
@[simp] theorem State.skipIf_v (c : Bool) : (s.skipIf c).v = s.v := by cases c <;> rfl
@[simp] theorem State.skipIf_ireg (c : Bool) : (s.skipIf c).ireg = s.ireg := by cases c <;> rfl
@[simp] theorem State.skipIf_sp (c : Bool) : (s.skipIf c).sp = s.sp := by cases c <;> rfl
@[simp] theorem State.skipIf_stack (c : Bool) : (s.skipIf c).stack = s.stack := by cases c <;> rfl
@[simp] theorem State.skipIf_dt (c : Bool) : (s.skipIf c).dt = s.dt := by cases c <;> rfl
@[simp] theorem State.skipIf_st (c : Bool) : (s.skipIf c).st = s.st := by cases c <;> rfl
@[simp] theorem State.skipIf_mem (c : Bool) : (s.skipIf c).mem = s.mem := by cases c <;> rfl
@[simp] theorem State.skipIf_fb (c : Bool) : (s.skipIf c).fb = s.fb := by cases c <;> rfl
@[simp] theorem State.skipIf_keySlot (c : Bool) : (s.skipIf c).keySlot = s.keySlot := by cases c <;> rfl
@[simp] theorem State.skipIf_fault (c : Bool) : (s.skipIf c).fault = s.fault := by cases c <;> rfl
@[simp] theorem State.skipIf_events (c : Bool) : (s.skipIf c).events = s.events := by cases c <;> rfl
@[simp] theorem State.skipIf_draws (c : Bool) : (s.skipIf c).draws = s.draws := by cases c <;> rfl
@[simp] theorem State.getV_skipIf (c : Bool) (q : RegIdx) : (s.skipIf c).getV q = s.getV q := by cases c <;> rfl

@[simp] theorem State.writeRF_cfg (x : RegIdx) (r f : Byte) : (s.writeRF x r f).cfg = s.cfg := by
  unfold State.writeRF; split <;> rfl
@[simp] theorem State.writeRF_ireg (x : RegIdx) (r f : Byte) : (s.writeRF x r f).ireg = s.ireg := by
  unfold State.writeRF; split <;> rfl
@[simp] theorem State.writeRF_pc (x : RegIdx) (r f : Byte) : (s.writeRF x r f).pc = s.pc := by
  unfold State.writeRF; split <;> rfl
@[simp] theorem State.writeRF_sp (x : RegIdx) (r f : Byte) : (s.writeRF x r f).sp = s.sp := by
  unfold State.writeRF; split <;> rfl
@[simp] theorem State.writeRF_stack (x : RegIdx) (r f : Byte) : (s.writeRF x r f).stack = s.stack := by
  unfold State.writeRF; split <;> rfl
@[simp] theorem State.writeRF_dt (x : RegIdx) (r f : Byte) : (s.writeRF x r f).dt = s.dt := by
  unfold State.writeRF; split <;> rfl
@[simp] theorem State.writeRF_st (x : RegIdx) (r f : Byte) : (s.writeRF x r f).st = s.st := by
  unfold State.writeRF; split <;> rfl
@[simp] theorem State.writeRF_mem (x : RegIdx) (r f : Byte) : (s.writeRF x r f).mem = s.mem := by
  unfold State.writeRF; split <;> rfl
@[simp] theorem State.writeRF_fb (x : RegIdx) (r f : Byte) : (s.writeRF x r f).fb = s.fb := by
  unfold State.writeRF; split <;> rfl
@[simp] theorem State.writeRF_keySlot (x : RegIdx) (r f : Byte) : (s.writeRF x r f).keySlot = s.keySlot := by
  unfold State.writeRF; split <;> rfl
@[simp] theorem State.writeRF_fault (x : RegIdx) (r f : Byte) : (s.writeRF x r f).fault = s.fault := by
  unfold State.writeRF; split <;> rfl
@[simp] theorem State.writeRF_events (x : RegIdx) (r f : Byte) : (s.writeRF x r f).events = s.events := by
  unfold State.writeRF; split <;> rfl
@[simp] theorem State.writeRF_draws (x : RegIdx) (r f : Byte) : (s.writeRF x r f).draws = s.draws := by
  unfold State.writeRF; split <;> rfl
@[simp] theorem State.writeR_cfg (x : RegIdx) (r : Byte) : (s.writeR x r).cfg = s.cfg := rfl
@[simp] theorem State.writeR_ireg (x : RegIdx) (r : Byte) : (s.writeR x r).ireg = s.ireg := rfl
@[simp] theorem State.writeR_pc (x : RegIdx) (r : Byte) : (s.writeR x r).pc = s.pc := rfl
@[simp] theorem State.writeR_sp (x : RegIdx) (r : Byte) : (s.writeR x r).sp = s.sp := rfl
@[simp] theorem State.writeR_stack (x : RegIdx) (r : Byte) : (s.writeR x r).stack = s.stack := rfl
@[simp] theorem State.writeR_dt (x : RegIdx) (r : Byte) : (s.writeR x r).dt = s.dt := rfl
@[simp] theorem State.writeR_st (x : RegIdx) (r : Byte) : (s.writeR x r).st = s.st := rfl
@[simp] theorem State.writeR_mem (x : RegIdx) (r : Byte) : (s.writeR x r).mem = s.mem := rfl
@[simp] theorem State.writeR_fb (x : RegIdx) (r : Byte) : (s.writeR x r).fb = s.fb := rfl
@[simp] theorem State.writeR_keySlot (x : RegIdx) (r : Byte) : (s.writeR x r).keySlot = s.keySlot := rfl
@[simp] theorem State.writeR_fault (x : RegIdx) (r : Byte) : (s.writeR x r).fault = s.fault := rfl
@[simp] theorem State.writeR_events (x : RegIdx) (r : Byte) : (s.writeR x r).events = s.events := rfl
@[simp] theorem State.writeR_draws (x : RegIdx) (r : Byte) : (s.writeR x r).draws = s.draws := rfl
@[simp] theorem State.getV_writeR (x : RegIdx) (r : Byte) (q : RegIdx) :
    (s.writeR x r).getV q = if q = x then r else s.getV q := s.getV_setV x r q

/-- Which of the two writes of R150 a register read sees. -/
theorem State.getV_writeRF (x : RegIdx) (r f : Byte) (q : RegIdx) :
    (s.writeRF x r f).getV q =
      if q = x ∧ q = vf then (if s.cfg.flagLast then f else r)
      else if q = x then r else if q = vf then f else s.getV q := by
  unfold State.writeRF
  by_cases hx : q = x <;> by_cases hf : q = vf <;> cases s.cfg.flagLast <;> simp_all

end Sys2Proof.Machine
end

