-- ==== Sys2Proof/Laws/Memory.lean ====
section
/-! SUPPORT. The laws of memory: what a read sees after a write, the canonical form, and the range check. -/

namespace Sys2Proof.Machine

variable (m : Memory) (a c : Nat) (b : Byte)

/-- Past the glyph table an unlisted byte is 0 (spec/10_state.md R38). -/
theorem unlistedByte_of_ge (h : fontSize ≤ a) : unlistedByte a = 0 := by
  rw [unlistedByte, List.getD_eq_default]
  rw [Vector.length_toList]
  exact h

@[simp] theorem Memory.read_nil : Memory.read [] a = unlistedByte a := rfl

theorem Memory.read_cons (e : Host.Cell) (rest : Memory) :
    Memory.read (e :: rest) a = if e.1 = a then e.2 else Memory.read rest a := rfl

/-- An address no entry names reads as its unlisted byte. -/
theorem Memory.read_of_not_listed (h : ∀ e ∈ m, e.1 ≠ a) : Memory.read m a = unlistedByte a := by
  induction m with
  | nil => rfl
  | cons e rest ih =>
    rw [Memory.read_cons, if_neg (h e (by simp)), ih fun d hd => h d (by simp [hd])]

theorem Memory.read_erase_same : Memory.read (Memory.erase m a) a = unlistedByte a :=
  Memory.read_of_not_listed _ _ fun e he => by simpa using (List.mem_filter.mp he).2

theorem Memory.read_erase_other (h : c ≠ a) : Memory.read (Memory.erase m a) c = Memory.read m c := by
  induction m with
  | nil => rfl
  | cons e rest ih =>
    by_cases he : e.1 = a
    · have : Memory.erase (e :: rest) a = Memory.erase rest a := by simp [Memory.erase, he]
      rw [this, ih, Memory.read_cons, if_neg (by omega)]
    · have : Memory.erase (e :: rest) a = e :: Memory.erase rest a := by simp [Memory.erase, he]
      rw [this, Memory.read_cons, Memory.read_cons, ih]

theorem Memory.read_insert_other (h : c ≠ a) : Memory.read (Memory.insert a b m) c = Memory.read m c := by
  induction m with
  | nil => simp [Memory.insert, Memory.read_cons, Ne.symm h]
  | cons e rest ih =>
    unfold Memory.insert
    split
    · rw [Memory.read_cons, if_neg (by simpa using Ne.symm h)]
    · rw [Memory.read_cons, ih, Memory.read_cons]

theorem Memory.read_insert_same (h : ∀ e ∈ m, e.1 ≠ a) : Memory.read (Memory.insert a b m) a = b := by
  induction m with
  | nil => simp [Memory.insert, Memory.read_cons]
  | cons e rest ih =>
    unfold Memory.insert
    split
    · simp [Memory.read_cons]
    · rw [Memory.read_cons, if_neg (h e (by simp)), ih fun d hd => h d (by simp [hd])]

/-- A read of the address just written gives the byte written. -/
@[simp] theorem Memory.read_write_same : Memory.read (Memory.write m a b) a = b := by
  unfold Memory.write
  split
  · rw [Memory.read_erase_same, ‹b = unlistedByte a›]
  · exact Memory.read_insert_same _ _ _ fun e he => by simpa using (List.mem_filter.mp he).2

/-- A write leaves every other address alone. -/
theorem Memory.read_write_other (h : c ≠ a) : Memory.read (Memory.write m a b) c = Memory.read m c := by
  unfold Memory.write
  split
  · exact Memory.read_erase_other _ _ _ h
  · rw [Memory.read_insert_other _ _ _ _ h, Memory.read_erase_other _ _ _ h]

/-- A read after one write, as one equation. -/
theorem Memory.read_write : Memory.read (Memory.write m a b) c = if c = a then b else Memory.read m c := by
  split
  · subst c; simp
  · exact Memory.read_write_other _ _ _ _ ‹_›

/-- A read after a run of writes from `a` up. -/
theorem Memory.read_writeBytes (bs : List Byte) :
    Memory.read (Memory.writeBytes m a bs) c =
      if a ≤ c ∧ c < a + bs.length then bs.getD (c - a) 0 else Memory.read m c := by
  induction bs generalizing m a with
  | nil => simp [Memory.writeBytes]
  | cons b rest ih =>
    rw [Memory.writeBytes, ih, Memory.read_write]
    by_cases hc : c = a
    · subst c; simp
    · by_cases h : a + 1 ≤ c ∧ c < a + 1 + rest.length
      · rw [if_pos h, if_pos (by simp; omega), show c - a = (c - (a + 1)) + 1 by omega]; rfl
      · rw [if_neg h, if_neg hc, if_neg (by simp; omega)]

@[simp] theorem Memory.readBytes_length (k : Nat) : (Memory.readBytes m a k).length = k := by
  induction k generalizing a with
  | zero => rfl
  | succ k ih => simp [Memory.readBytes, ih]

/-- The j-th byte of a run of reads. -/
theorem Memory.readBytes_getD (k j : Nat) (h : j < k) :
    (Memory.readBytes m a k).getD j 0 = Memory.read m (a + j) := by
  induction k generalizing a j with
  | zero => omega
  | succ k ih =>
    cases j with
    | zero => rfl
    | succ j =>
      rw [Memory.readBytes, List.getD_cons_succ, ih _ _ (by omega), show a + 1 + j = a + (j + 1) by omega]

/-! ### The canonical form -/

theorem Memory.wf_nil : Memory.wf [] := ⟨List.Pairwise.nil, by simp⟩

theorem Memory.wf_erase (h : m.wf) : (Memory.erase m a).wf :=
  ⟨h.1.filter _, fun e he => h.2 e (List.mem_filter.mp he).1⟩

theorem Memory.mem_insert (e : Host.Cell) : e ∈ Memory.insert a b m ↔ e = (a, b) ∨ e ∈ m := by
  induction m with
  | nil => simp [Memory.insert]
  | cons d rest ih =>
    unfold Memory.insert
    split
    · simp
    · simp [ih, or_left_comm]

theorem Memory.wf_insert (h : m.wf) (ha : a < memSize) (hb : b ≠ unlistedByte a) (hn : ∀ e ∈ m, e.1 ≠ a) :
    (Memory.insert a b m).wf := by
  refine ⟨?_, fun e he => ?_⟩
  · induction m with
    | nil => simp [Memory.insert]
    | cons d rest ih =>
      obtain ⟨hd, hr⟩ := List.pairwise_cons.mp h.1
      unfold Memory.insert
      split
      · refine List.pairwise_cons.mpr ⟨fun e he => ?_, h.1⟩
        rcases List.mem_cons.mp he with rfl | he
        · assumption
        · exact Nat.lt_trans ‹_› (hd e he)
      · have hda := hn d (by simp)
        refine List.pairwise_cons.mpr ⟨fun e he => ?_, ih ⟨hr, fun e he => h.2 e (by simp [he])⟩ fun e he => hn e (by simp [he])⟩
        rcases (Memory.mem_insert _ _ _ _).mp he with rfl | he
        · show d.1 < a; omega
        · exact hd e he
  · rcases (Memory.mem_insert _ _ _ _).mp he with rfl | he
    · exact ⟨ha, hb⟩
    · exact h.2 e he

/-- A write to an address of the address space keeps the canonical form. -/
theorem Memory.wf_write (h : m.wf) (ha : a < memSize) : (Memory.write m a b).wf := by
  unfold Memory.write
  split
  · exact Memory.wf_erase _ _ h
  · exact Memory.wf_insert _ _ _ (Memory.wf_erase _ _ h) ha ‹_› fun e he => by simpa using (List.mem_filter.mp he).2

/-- A run of writes inside the address space keeps the canonical form. -/
theorem Memory.wf_writeBytes (bs : List Byte) (h : m.wf) (ha : a + bs.length ≤ memSize) :
    (Memory.writeBytes m a bs).wf := by
  induction bs generalizing m a with
  | nil => exact h
  | cons b rest ih =>
    simp only [List.length_cons] at ha
    exact ih _ _ (Memory.wf_write _ _ _ h (by omega)) (by omega)

/-! ### CheckRange and MemRead -/

/-- The range check passes exactly when every one of the addresses exists. -/
theorem checkRange_none_iff (k : Nat) : checkRange a k = none ↔ k = 0 ∨ a + k ≤ memSize := by
  induction k generalizing a with
  | zero => simp [checkRange]
  | succ k ih =>
    unfold checkRange
    split
    · simp; omega
    · rw [ih]; omega

/-- A range check that fails names the lowest address that does not exist. -/
theorem checkRange_eq_some_iff (k : Nat) :
    checkRange a k = some c ↔ c = max a memSize ∧ a ≤ c ∧ c < a + k := by
  induction k generalizing a with
  | zero => simp [checkRange]
  | succ k ih =>
    unfold checkRange
    split
    · simp; omega
    · rw [ih]; omega

/-- What an instruction with a range check does: it goes on, or raises `MemoryBounds` of the lowest bad address. -/
theorem State.withRange_cases (s : State) (k : Nat) (go : Host.Outcome State Fault Refusal) :
    (k = 0 ∨ a + k ≤ memSize) ∧ s.withRange a k go = go ∨
    (k ≠ 0 ∧ memSize < a + k) ∧ s.withRange a k go = .fault (.memoryBounds s.pc (max a memSize)) := by
  unfold State.withRange
  cases h : checkRange a k with
  | none => exact .inl ⟨(checkRange_none_iff a k).mp h, rfl⟩
  | some c =>
    obtain ⟨rfl, h1, h2⟩ := (checkRange_eq_some_iff a c k).mp h
    exact .inr ⟨by omega, rfl⟩

theorem State.withRange_of_fits (s : State) (k : Nat) (go : Host.Outcome State Fault Refusal)
    (h : k = 0 ∨ a + k ≤ memSize) : s.withRange a k go = go := by
  rw [State.withRange, (checkRange_none_iff a k).mpr h]

theorem State.memRead_of_lt (s : State) (h : a < memSize) : s.memRead a = .ok (Memory.read s.mem a) := by
  rw [State.memRead, if_neg (by omega)]

theorem State.memRead_of_ge (s : State) (h : memSize ≤ a) : s.memRead a = .error (.memoryBounds s.pc a) := by
  rw [State.memRead, if_pos h]

/-- What a fetch does: the word at PC, or `MemoryBounds` of the lower bad address of the two. -/
theorem State.fetch_eq (s : State) :
    s.fetch = if s.pc.toNat + 1 < memSize
      then .ok (wordOfBytes (Memory.read s.mem s.pc.toNat) (Memory.read s.mem (s.pc.toNat + 1)))
      else .error (.memoryBounds s.pc (max s.pc.toNat memSize)) := by
  unfold State.fetch
  rcases Nat.lt_or_ge s.pc.toNat memSize with h | h
  · rw [State.memRead_of_lt _ _ h]
    rcases Nat.lt_or_ge (s.pc.toNat + 1) memSize with h' | h'
    · rw [State.memRead_of_lt _ _ h', if_pos h']
    · rw [State.memRead_of_ge _ _ h', if_neg (by omega), show s.pc.toNat + 1 = max s.pc.toNat memSize by omega]
  · rw [State.memRead_of_ge _ _ h, if_neg (by omega), show max s.pc.toNat memSize = s.pc.toNat by omega]

/-! ### Block register transfers -/

/-- The register file after a run of writes from register `k` up. -/
theorem getElem_regsFrom (v : Vector Byte 16) (k : Nat) (bs : List Byte) (j : Nat) (hj : j < 16) :
    (regsFrom v k bs)[j] = if k ≤ j ∧ j < k + bs.length then bs.getD (j - k) 0 else v[j] := by
  induction bs generalizing v k with
  | nil => simp [regsFrom]
  | cons b rest ih =>
    rw [regsFrom, ih, Vector.getElem_setIfInBounds]
    by_cases hc : k = j
    · subst k; simp
    · by_cases h : k + 1 ≤ j ∧ j < k + 1 + rest.length
      · rw [if_pos h, if_pos (by simp; omega), show j - k = (j - (k + 1)) + 1 by omega]; rfl
      · rw [if_neg h, if_neg hc, if_neg (by simp; omega)]

/-- A register read after a block load. -/
theorem State.getV_loadRegs (s : State) (vals : List Byte) (q : RegIdx) :
    (s.loadRegs vals).getV q = if q.val < vals.length then vals.getD q.val 0 else s.getV q := by
  simp only [State.getV, State.loadRegs, Fin.getElem_fin]
  rw [getElem_regsFrom]
  simp

@[simp] theorem State.regsUpTo_length (s : State) (k : Nat) (h : k ≤ 16) : (s.regsUpTo k).length = k := by
  simp [State.regsUpTo, h]

/-- The registers a block store writes out. -/
theorem State.regsUpTo_getD (s : State) (k j : Nat) (hj : j < k) (h : j < 16) :
    (s.regsUpTo k).getD j 0 = s.getV ⟨j, h⟩ := by
  simp [State.regsUpTo, State.getV, List.getD_eq_getElem?_getD, hj, h]

end Sys2Proof.Machine
end

