-- ==== Sys2Proof/Laws/Cycle.lean ====
section
/-! SUPPORT. Everything a step can do, once. -/

namespace Sys2Proof.Machine

variable {s t : State}

/-- A step that answers a next state fetched a word, decoded it, executed it and ticked the timers. -/
theorem step_next_cases (h : step s = .next t) :
    ∃ w i u, s.fault = none ∧ s.fetch = .ok w ∧ decodeWord s.cfg.strict59 w = .instr i ∧ exec i s = .next u ∧
      t = u.tick := by
  unfold step State.cycle at h
  split at h
  · cases h
  · split at h
    · cases h
    · unfold State.runWord at h
      split at h
      · cases h
      · unfold tickOutcome at h
        split at h <;> cases h
        exact ⟨_, _, _, ‹_›, ‹_›, ‹_›, ‹_›, rfl⟩

/-- A step that faults answers the latched fault, a fetch fault, `DecodeError`, or the instruction's own fault, in this
order (spec/60_exceptions.md R253). -/
theorem step_fault_cases {f : Fault} (h : step s = .fault f) :
    s.fault = some f ∨ (s.fault = none ∧ s.fetch = .error f) ∨
    (∃ w r, s.fault = none ∧ s.fetch = .ok w ∧ decodeWord s.cfg.strict59 w = .reject r ∧ f = .decodeError s.pc w) ∨
    ∃ w i, s.fault = none ∧ s.fetch = .ok w ∧ decodeWord s.cfg.strict59 w = .instr i ∧ exec i s = .fault f := by
  unfold step State.cycle at h
  split at h
  · cases h; exact .inl ‹_›
  · split at h
    · cases h; exact .inr (.inl ⟨‹_›, ‹_›⟩)
    · unfold State.runWord at h
      split at h
      · cases h; exact .inr (.inr (.inl ⟨_, _, ‹_›, ‹_›, ‹_›, rfl⟩))
      · unfold tickOutcome at h
        split at h <;> cases h
        exact .inr (.inr (.inr ⟨_, _, ‹_›, ‹_›, ‹_›, ‹_›⟩))

/-- A step that refuses executed an instruction that refuses. -/
theorem step_refused_cases {r : Refusal} (h : step s = .refused r) :
    ∃ w i, s.fault = none ∧ s.fetch = .ok w ∧ decodeWord s.cfg.strict59 w = .instr i ∧ exec i s = .refused r := by
  unfold step State.cycle at h
  split at h
  · cases h
  · split at h
    · cases h
    · unfold State.runWord at h
      split at h
      · cases h
      · unfold tickOutcome at h
        split at h <;> cases h
        exact ⟨_, _, ‹_›, ‹_›, ‹_›, ‹_›⟩

/-- A counter's tick as arithmetic: natural subtraction stops at 0 (spec/47_timers_memory.md R237). -/
theorem tickCounter_toNat (b : Byte) : (tickCounter b).toNat = b.toNat - 1 := by
  unfold tickCounter
  split
  · rw [BitVec.toNat_sub]; simp; omega
  · omega

/-- A key matches exactly when one is held and its code is the whole register value (spec/46_key.md R221). -/
theorem State.keyMatches_iff (s : State) (x : RegIdx) :
    s.keyMatches x = true ↔ ∃ k, s.keySlot = some k ∧ k.toNat = (s.getV x).toNat := by
  unfold State.keyMatches
  cases h : s.keySlot with
  | none => simp
  | some k =>
    have : (zextKey k).toNat = k.toNat := by simp [zextKey]; omega
    simp [BitVec.toNat_eq, this]
    exact ⟨fun hk => ⟨k, rfl, hk⟩, fun ⟨_, h₁, h₂⟩ => h₁.trans h₂⟩

end Sys2Proof.Machine
end

