-- ==== Sys2Proof/Laws/Decode.lean ====
section
/-! SUPPORT. The fields of the words the encoder builds, and the bytes of a word. -/

namespace Sys2Proof

variable (f n : Nibble) (x y : RegIdx) (nn : Byte) (nnn : Addr12) (w : Word)

@[simp] theorem fieldF_wordNNN : fieldF (wordNNN f nnn) = f := by
  ext i hi; interval_cases i <;> simp [fieldF, wordNNN, BitVec.getLsbD_eq_getElem]

@[simp] theorem fieldNNN_wordNNN : fieldNNN (wordNNN f nnn) = nnn := by
  ext i hi; interval_cases i <;> simp [fieldNNN, wordNNN]

@[simp] theorem fieldF_wordXNN : fieldF (wordXNN f x nn) = f := by
  ext i hi; interval_cases i <;> simp [fieldF, wordXNN, BitVec.getLsbD_eq_getElem]

@[simp] theorem fieldNN_wordXNN : fieldNN (wordXNN f x nn) = nn := by
  ext i hi; interval_cases i <;> simp [fieldNN, wordXNN]

@[simp] theorem fieldX_wordXNN : fieldX (wordXNN f x nn) = x := by
  have : (wordXNN f x nn).extractLsb' 8 4 = BitVec.ofNat 4 x.val := by
    ext i hi; interval_cases i <;> simp [wordXNN]
  rw [fieldX, this]; simp

@[simp] theorem fieldF_wordXYN : fieldF (wordXYN f x y n) = f := by
  ext i hi; interval_cases i <;> simp [fieldF, wordXYN, BitVec.getLsbD_eq_getElem]

@[simp] theorem fieldX_wordXYN : fieldX (wordXYN f x y n) = x := by
  have : (wordXYN f x y n).extractLsb' 8 4 = BitVec.ofNat 4 x.val := by
    ext i hi; interval_cases i <;> simp [wordXYN]
  rw [fieldX, this]; simp

@[simp] theorem fieldY_wordXYN : fieldY (wordXYN f x y n) = y := by
  have : (wordXYN f x y n).extractLsb' 4 4 = BitVec.ofNat 4 y.val := by
    ext i hi; interval_cases i <;> simp [wordXYN]
  rw [fieldY, this]; simp

@[simp] theorem fieldN_wordXYN : fieldN (wordXYN f x y n) = n := by
  ext i hi; interval_cases i <;> simp [fieldN, wordXYN]

/-- A word is its two bytes, high byte first. -/
@[simp] theorem wordOfBytes_bytes : wordOfBytes (highByte w) (lowByte w) = w := by
  ext i hi; interval_cases i <;> simp [wordOfBytes, highByte, lowByte, BitVec.getLsbD_eq_getElem]

@[simp] theorem highByte_wordOfBytes (hi lo : Byte) : highByte (wordOfBytes hi lo) = hi := by
  ext i h; interval_cases i <;> simp [highByte, wordOfBytes, BitVec.getLsbD_eq_getElem]

@[simp] theorem lowByte_wordOfBytes (hi lo : Byte) : lowByte (wordOfBytes hi lo) = lo := by
  ext i h; interval_cases i <;> simp [lowByte, wordOfBytes]

/-- Decoding a run of bytes that starts with a word's two bytes decodes that word. -/
theorem decodeBytes_word (strict : Bool) (rest : List Byte) :
    decodeBytes strict (highByte w :: lowByte w :: rest) = (decodeWord strict w, rest) := by
  rw [decodeBytes, wordOfBytes_bytes]

end Sys2Proof
end

