-- ==== Sys2Proof/Laws/Exec.lean ====
section
/-! SUPPORT. What execute does to memory, once for all 35 instructions, and what a cycle emitted. -/

namespace Sys2Proof.Machine

variable {s t : State}

/-- An instruction that completes leaves memory with its stored bytes written from I up, and nothing else
(spec/20_memory.md R62, R64). -/
theorem exec_mem {i : Instr} (h : exec i s = .next t) :
    t.mem = Memory.writeBytes s.mem s.ireg.toNat (storedBytes i s) := by
  cases i
  case ret => simp only [exec, execRet, raise] at h; (repeat' split at h) <;> cases h; rfl
  case call => simp only [exec, execCall, raise] at h; (repeat' split at h) <;> cases h; rfl
  case ldF => simp only [exec, execLdF, raise] at h; (repeat' split at h) <;> cases h; rfl
  case ldVxK => simp only [exec, execLdVxK] at h; (repeat' split at h) <;> cases h <;> rfl
  case ldB =>
    rcases State.withRange_cases s.ireg.toNat s 3 _ with ⟨-, e⟩ | ⟨-, e⟩ <;> cases e.symm.trans h; rfl
  case stBlock x =>
    rcases State.withRange_cases s.ireg.toNat s (blockLength x) _ with ⟨-, e⟩ | ⟨-, e⟩ <;> cases e.symm.trans h; rfl
  case ldBlock x =>
    rcases State.withRange_cases s.ireg.toNat s (blockLength x) _ with ⟨-, e⟩ | ⟨-, e⟩ <;> cases e.symm.trans h; rfl
  case drw x y n =>
    rcases State.withRange_cases s.ireg.toNat s n.toNat _ with ⟨-, e⟩ | ⟨-, e⟩ <;> cases e.symm.trans h; rfl
  all_goals
    cases h
    simp [storedBytes, Memory.writeBytes]

/-- A byte of memory after a run of stores. -/
theorem read_writeBytes_eq_overlaid (m : Memory) (base a : Nat) (bs : List Byte) :
    Memory.read (Memory.writeBytes m base bs) a = overlaid m base bs a := Memory.read_writeBytes m base a bs

/-- What leaves `DISPLAY_OUT` between two states, when the stream of one extends that of the other. -/
theorem State.emittedSince_of_append {es : List DisplayEvent} (h : t.events = s.events ++ es) :
    t.emittedSince s = es := by
  simp [State.emittedSince, h]

end Sys2Proof.Machine
end

