-- ==== Sys2Proof/Laws/PerInstr.lean ====
section
/-! SUPPORT. One lemma per instruction: its word lies in its own row of the opcode map (spec/30_encoding.md R83). -/

namespace Sys2Proof.Laws.RowMatch

/-- The word of a well-formed instruction is covered by the instruction's own row. -/
def Statement (i : Instr) : Prop := i.wf = true → (opcodeRows.getD i.row ⟨0, 0, []⟩).covers (encode i) = true

/-- The family of a word of the form FNNN. -/
theorem and_wordNNN (f : Nibble) (nnn : Addr12) : wordNNN f nnn &&& 0xF000#16 = f.setWidth 16 <<< 12 := by
  ext i hi; interval_cases i <;> simp [wordNNN]

/-- The family of a word of the form FXNN. -/
theorem and_wordXNN (f : Nibble) (x : RegIdx) (nn : Byte) : wordXNN f x nn &&& 0xF000#16 = f.setWidth 16 <<< 12 := by
  ext i hi; interval_cases i <;> simp [wordXNN]

/-- The family and the low byte of a word of the form FXNN. -/
theorem and_wordXNN_low (f : Nibble) (x : RegIdx) (nn : Byte) :
    wordXNN f x nn &&& 0xF0FF#16 = f.setWidth 16 <<< 12 ||| nn.setWidth 16 := by
  ext i hi; interval_cases i <;> simp [wordXNN]

/-- The family of a word of the form FXYN. -/
theorem and_wordXYN (f n : Nibble) (x y : RegIdx) : wordXYN f x y n &&& 0xF000#16 = f.setWidth 16 <<< 12 := by
  ext i hi; interval_cases i <;> simp [wordXYN]

/-- The family and the low nibble of a word of the form FXYN. -/
theorem and_wordXYN_low (f n : Nibble) (x y : RegIdx) :
    wordXYN f x y n &&& 0xF00F#16 = f.setWidth 16 <<< 12 ||| n.setWidth 16 := by
  ext i hi; interval_cases i <;> simp [wordXYN]

/-- `SYS` words differ from the two excluded ones. -/
theorem sys_ne (nnn c : Addr12) (h : nnn ≠ c) : wordNNN 0x0 nnn ≠ wordNNN 0x0 c := fun he =>
  h (by rw [← fieldNNN_wordNNN 0x0 nnn, he, fieldNNN_wordNNN])

theorem sys (nnn : Addr12) : Statement (.sys nnn) := by
  intro h
  simp only [Instr.wf, Bool.and_eq_true, bne_iff_ne, ne_eq] at h
  have h₁ : encode (.sys nnn) ≠ 0x00E0#16 := sys_ne nnn 0x0E0#12 h.1
  have h₂ : encode (.sys nnn) ≠ 0x00EE#16 := sys_ne nnn 0x0EE#12 h.2
  have h₃ : encode (.sys nnn) &&& 0xF000#16 = 0x0000#16 := and_wordNNN 0x0 nnn
  simp [OpcodeRow.covers, opcodeRows, Instr.row, h₁, h₂, h₃]

theorem cls : Statement .cls := fun _ => by decide

theorem ret : Statement .ret := fun _ => by decide

theorem jp (nnn : Addr12) : Statement (.jp nnn) := fun _ => by
  simp [OpcodeRow.covers, opcodeRows, Instr.row, encode, and_wordNNN]

theorem call (nnn : Addr12) : Statement (.call nnn) := fun _ => by
  simp [OpcodeRow.covers, opcodeRows, Instr.row, encode, and_wordNNN]

theorem seByte (x : RegIdx) (nn : Byte) : Statement (.seByte x nn) := fun _ => by
  simp [OpcodeRow.covers, opcodeRows, Instr.row, encode, and_wordXNN]

theorem sneByte (x : RegIdx) (nn : Byte) : Statement (.sneByte x nn) := fun _ => by
  simp [OpcodeRow.covers, opcodeRows, Instr.row, encode, and_wordXNN]

theorem seReg (x y : RegIdx) : Statement (.seReg x y) := fun _ => by
  simp [OpcodeRow.covers, opcodeRows, Instr.row, encode, and_wordXYN]

theorem ldByte (x : RegIdx) (nn : Byte) : Statement (.ldByte x nn) := fun _ => by
  simp [OpcodeRow.covers, opcodeRows, Instr.row, encode, and_wordXNN]

theorem addByte (x : RegIdx) (nn : Byte) : Statement (.addByte x nn) := fun _ => by
  simp [OpcodeRow.covers, opcodeRows, Instr.row, encode, and_wordXNN]

theorem ldReg (x y : RegIdx) : Statement (.ldReg x y) := fun _ => by
  simp [OpcodeRow.covers, opcodeRows, Instr.row, encode, and_wordXYN_low]

theorem orReg (x y : RegIdx) : Statement (.orReg x y) := fun _ => by
  simp [OpcodeRow.covers, opcodeRows, Instr.row, encode, and_wordXYN_low]

theorem andReg (x y : RegIdx) : Statement (.andReg x y) := fun _ => by
  simp [OpcodeRow.covers, opcodeRows, Instr.row, encode, and_wordXYN_low]

theorem xorReg (x y : RegIdx) : Statement (.xorReg x y) := fun _ => by
  simp [OpcodeRow.covers, opcodeRows, Instr.row, encode, and_wordXYN_low]

theorem addReg (x y : RegIdx) : Statement (.addReg x y) := fun _ => by
  simp [OpcodeRow.covers, opcodeRows, Instr.row, encode, and_wordXYN_low]

theorem sub (x y : RegIdx) : Statement (.sub x y) := fun _ => by
  simp [OpcodeRow.covers, opcodeRows, Instr.row, encode, and_wordXYN_low]

theorem shr (x y : RegIdx) : Statement (.shr x y) := fun _ => by
  simp [OpcodeRow.covers, opcodeRows, Instr.row, encode, and_wordXYN_low]

theorem subn (x y : RegIdx) : Statement (.subn x y) := fun _ => by
  simp [OpcodeRow.covers, opcodeRows, Instr.row, encode, and_wordXYN_low]

theorem shl (x y : RegIdx) : Statement (.shl x y) := fun _ => by
  simp [OpcodeRow.covers, opcodeRows, Instr.row, encode, and_wordXYN_low]

theorem sneReg (x y : RegIdx) : Statement (.sneReg x y) := fun _ => by
  simp [OpcodeRow.covers, opcodeRows, Instr.row, encode, and_wordXYN]

theorem ldI (nnn : Addr12) : Statement (.ldI nnn) := fun _ => by
  simp [OpcodeRow.covers, opcodeRows, Instr.row, encode, and_wordNNN]

theorem jpV0 (nnn : Addr12) : Statement (.jpV0 nnn) := fun _ => by
  simp [OpcodeRow.covers, opcodeRows, Instr.row, encode, and_wordNNN]

theorem rnd (x : RegIdx) (nn : Byte) : Statement (.rnd x nn) := fun _ => by
  simp [OpcodeRow.covers, opcodeRows, Instr.row, encode, and_wordXNN]

theorem drw (x y : RegIdx) (n : Nibble) : Statement (.drw x y n) := fun _ => by
  simp [OpcodeRow.covers, opcodeRows, Instr.row, encode, and_wordXYN]

theorem skp (x : RegIdx) : Statement (.skp x) := fun _ => by
  simp [OpcodeRow.covers, opcodeRows, Instr.row, encode, and_wordXNN_low]

theorem sknp (x : RegIdx) : Statement (.sknp x) := fun _ => by
  simp [OpcodeRow.covers, opcodeRows, Instr.row, encode, and_wordXNN_low]

theorem ldVxDt (x : RegIdx) : Statement (.ldVxDt x) := fun _ => by
  simp [OpcodeRow.covers, opcodeRows, Instr.row, encode, and_wordXNN_low]

theorem ldVxK (x : RegIdx) : Statement (.ldVxK x) := fun _ => by
  simp [OpcodeRow.covers, opcodeRows, Instr.row, encode, and_wordXNN_low]

theorem ldDtVx (x : RegIdx) : Statement (.ldDtVx x) := fun _ => by
  simp [OpcodeRow.covers, opcodeRows, Instr.row, encode, and_wordXNN_low]

theorem ldStVx (x : RegIdx) : Statement (.ldStVx x) := fun _ => by
  simp [OpcodeRow.covers, opcodeRows, Instr.row, encode, and_wordXNN_low]

theorem addI (x : RegIdx) : Statement (.addI x) := fun _ => by
  simp [OpcodeRow.covers, opcodeRows, Instr.row, encode, and_wordXNN_low]

theorem ldF (x : RegIdx) : Statement (.ldF x) := fun _ => by
  simp [OpcodeRow.covers, opcodeRows, Instr.row, encode, and_wordXNN_low]

theorem ldB (x : RegIdx) : Statement (.ldB x) := fun _ => by
  simp [OpcodeRow.covers, opcodeRows, Instr.row, encode, and_wordXNN_low]

theorem stBlock (x : RegIdx) : Statement (.stBlock x) := fun _ => by
  simp [OpcodeRow.covers, opcodeRows, Instr.row, encode, and_wordXNN_low]

theorem ldBlock (x : RegIdx) : Statement (.ldBlock x) := fun _ => by
  simp [OpcodeRow.covers, opcodeRows, Instr.row, encode, and_wordXNN_low]

end Sys2Proof.Laws.RowMatch
end

