-- ==== Sys2Proof/Laws/Pixels.lean ====
section
/-! SUPPORT. The laws of single pixels. -/

namespace Sys2Proof.Machine

variable (fb : Framebuffer)

/-- A pixel read after a pixel write. -/
theorem pixel_setPixel (x x' : Fin 64) (y y' : Fin 32) (b : Bool) :
    pixel (setPixel fb x y b) x' y' = if x' = x ∧ y' = y then b else pixel fb x' y' := by
  by_cases hy : y' = y
  · subst hy
    by_cases hx : x' = x
    · subst hx; simp [pixel, setPixel]
    · simp [pixel, setPixel, hx, Fin.val_inj, Ne.symm hx]
  · simp [pixel, setPixel, hy, Fin.val_inj, Ne.symm hy]

/-- Every pixel of the blank framebuffer is 0. -/
@[simp] theorem pixel_blank (x : Fin 64) (y : Fin 32) : pixel blankFramebuffer x y = false := by
  simp [pixel, blankFramebuffer]

/-- Two framebuffers with the same pixels are the same. -/
theorem framebuffer_ext (f g : Framebuffer) (h : ∀ x y, pixel f x y = pixel g x y) : f = g :=
  Vector.ext fun y hy => Vector.ext fun x hx => h ⟨x, hx⟩ ⟨y, hy⟩

/-- The pixels after one pixel of a draw: its own is XORed with the sprite bit. -/
theorem drawBit_pixel (x0 y0 row : Byte) (r b : Nat) (acc : Framebuffer × Bool) (x : Fin 64) (y : Fin 32) :
    pixel (drawBit x0 y0 row r acc b).1 x y =
      (pixel acc.1 x y ^^ (decide (x = pixelColumn x0 b ∧ y = pixelRow y0 r) && spriteBit row b)) := by
  simp only [drawBit, pixel_setPixel]
  by_cases h : x = pixelColumn x0 b ∧ y = pixelRow y0 r
  · rw [if_pos h, h.1, h.2]; simp
  · simp [h]

/-- The collision after one pixel of a draw: a 1 bit met a 1 pixel, now or before (spec/45_draw_framebuffer.md R192). -/
theorem drawBit_collided (x0 y0 row : Byte) (r b : Nat) (acc : Framebuffer × Bool) :
    (drawBit x0 y0 row r acc b).2 =
      (acc.2 || (pixel acc.1 (pixelColumn x0 b) (pixelRow y0 r) && spriteBit row b)) := by
  cases h : pixel acc.1 (pixelColumn x0 b) (pixelRow y0 r) <;> cases h' : spriteBit row b <;> simp [drawBit, h, h']

end Sys2Proof.Machine
end

