-- ==== Sys2Proof/Laws/Stack.lean ====
section
/-! SUPPORT. The return stack after each update. -/

namespace Sys2Proof.Machine

variable (s : State)

/-- An entry read after a push. -/
theorem State.stackEntry_push (w : Word) (k : Nat) (h : s.sp.toNat < 16) :
    (s.push w).stackEntry k = if k = s.sp.toNat then w else s.stackEntry k := by
  simp only [State.stackEntry, State.push_stack, List.getD_eq_getElem?_getD, Vector.getElem?_toList,
    Vector.getElem?_setIfInBounds]
  by_cases hk : s.sp.toNat = k
  · simp [hk, hk ▸ h]
  · simp [hk, Ne.symm hk]

/-- The stack depth is at most 16. -/
theorem StackDepth.toNat_le (d : StackDepth) : d.toNat ≤ 16 := by cases d <;> decide

/-- SP after a push, as arithmetic. -/
theorem State.push_sp_toNat (w : Word) (h : s.sp.toNat < 16) : (s.push w).sp.toNat = s.sp.toNat + 1 := by
  rw [State.push_sp, BitVec.toNat_add]; simp; omega

/-- SP after a pop, as arithmetic. -/
theorem State.pop_sp_toNat (h : 0 < s.sp.toNat) : s.pop.sp.toNat = s.sp.toNat - 1 := by
  rw [State.pop_sp, BitVec.toNat_sub]; simp; omega

/-- A pop leaves every entry in place. -/
@[simp] theorem State.stackEntry_pop (k : Nat) : s.pop.stackEntry k = s.stackEntry k := rfl

/-- A jump leaves every entry in place. -/
@[simp] theorem State.stackEntry_jump (t : Word) (k : Nat) : (s.jump t).stackEntry k = s.stackEntry k := rfl

end Sys2Proof.Machine
end

