-- ==== Sys2Proof/Tests/Slice0.lean ====
section
/-! SUPPORT. Tests of single instructions, their expected results taken from spec/95_test_vectors.md (S and T numbers),
and for every statement with hypotheses a state and operands that meet them. -/

namespace Sys2Proof.Tests

open Sys2Proof Sys2Proof.Machine

/-! ### WellFormed refuses an ill-formed term for each check -/

theorem test_wf_refuses_sys_0E0 : (Instr.sys 0x0E0).wf = false := by decide
theorem test_wf_refuses_sys_0EE : (Instr.sys 0x0EE).wf = false := by decide
theorem test_wf_accepts_sys_000 : (Instr.sys 0x000).wf = true := by decide

/-! ### One written word per constructor (spec/30_encoding.md R83) -/

theorem test_decode_control_flow :
    [0x0123, 0x00E0, 0x00EE, 0x1234, 0x2ABC, 0xB5A0].map (decodeTableWord 16) =
      [some (.sys 0x123), some .cls, some .ret, some (.jp 0x234), some (.call 0xABC), some (.jpV0 0x5A0)] := by decide
theorem test_decode_family_zero_low_bytes :
    [0x0000, 0x01E0, 0x0FEE].map (decodeTableWord 16) =
      [some (.sys 0x000), some (.sys 0x1E0), some (.sys 0xFEE)] := by decide
theorem test_decode_skips :
    [0x3342, 0x4342, 0x5120, 0x9120].map (decodeTableWord 16) =
      [some (.seByte 3 0x42), some (.sneByte 3 0x42), some (.seReg 1 2), some (.sneReg 1 2)] := by decide
theorem test_decode_immediate :
    [0x6A5C, 0x7220].map (decodeTableWord 16) = [some (.ldByte 10 0x5C), some (.addByte 2 0x20)] := by decide
theorem test_decode_alu_copy_and_bitwise :
    [0x8F10, 0x8F11, 0x8F12, 0x8F13].map (decodeTableWord 16) =
      [some (.ldReg 15 1), some (.orReg 15 1), some (.andReg 15 1), some (.xorReg 15 1)] := by decide
theorem test_decode_alu_flags :
    [0x8F14, 0x8F15, 0x8F16, 0x8F17, 0x8F1E].map (decodeTableWord 16) =
      [some (.addReg 15 1), some (.sub 15 1), some (.shr 15 1), some (.subn 15 1), some (.shl 15 1)] := by decide
theorem test_decode_index_random_draw :
    [0xA2F0, 0xC30F, 0xD12F].map (decodeTableWord 16) =
      [some (.ldI 0x2F0), some (.rnd 3 0x0F), some (.drw 1 2 15)] := by decide
theorem test_decode_keys :
    [0xE29E, 0xE2A1, 0xF30A].map (decodeTableWord 16) = [some (.skp 2), some (.sknp 2), some (.ldVxK 3)] := by decide
theorem test_decode_timers :
    [0xF407, 0xF115, 0xF118, 0xF51E].map (decodeTableWord 16) =
      [some (.ldVxDt 4), some (.ldDtVx 1), some (.ldStVx 1), some (.addI 5)] := by decide
theorem test_decode_memory_forms :
    [0xF729, 0xF333, 0xF255, 0xF265].map (decodeTableWord 16) =
      [some (.ldF 7), some (.ldB 3), some (.stBlock 2), some (.ldBlock 2)] := by decide
/-- T34 to T38. -/
theorem test_decode_illegal :
    [0x8008, 0x800F, 0xE000, 0xF000, 0xFFFF].map (decodeTableWord 16) = [none, none, none, none, none] := by decide
/-- T26 to T28. -/
theorem test_decode_strict_compare :
    decodeWord false 0x5121 = .instr (.seReg 1 2) ∧ decodeWord true 0x5121 = .reject .compareNibble ∧
    decodeWord true 0x912F = .reject .compareNibble := by decide
theorem test_decode_truncated : decodeBytes false [0x12] = (.reject .truncated, [0x12]) := by decide

/-! ### Helpers: one step on a small state -/

/-- The step of a word placed where `s` fetches. -/
def runWord (w : Nat) (s : State) : Host.Outcome State Fault Refusal := step (s.withFetchWord 16 w)

/-- One view of the state a step ends in. -/
def view {α : Type} (o : Host.Outcome State Fault Refusal) (f : State → α) : Option α :=
  match o with
  | .next t => some (f t)
  | _ => none

/-- The fault a step ends in. -/
def faultOf (o : Host.Outcome State Fault Refusal) : Option Fault :=
  match o with
  | .fault f => some f
  | _ => none

/-- The reset state with Vx, Vy and VF set (X = 0, Y = 1). -/
def aluState (x y : Byte) : State := ((State.reset.setV 0 x).setV 1 y).setV 15 0x55

/-- V0 and VF. -/
def resultAndFlag (t : State) : Byte × Byte := (t.getV 0, t.getV 15)

/-- The reset state with other parameters. -/
def withConfig (c : Config) (s : State) : State := { s with cfg := c }

/-- The reset state with bytes at an address and I pointing at them. -/
def withBytes (a : Nat) (bs : List Byte) : State :=
  { State.reset with mem := Memory.writeBytes [] a bs, ireg := BitVec.ofNat 16 a }

/-! ### Control flow -/

/-- T1. -/
theorem test_sys : view (runWord 0x0123 State.reset) (·.pc) = some 0x202 := by decide
/-- T3. -/
theorem test_cls : view (runWord 0x00E0 { State.reset with fb := setPixel blankFramebuffer 3 4 true })
    (fun t => (pixel t.fb 3 4, t.events)) = some (false, [.displayClear, .present blankFramebuffer]) := by decide
/-- T5. -/
theorem test_ret : view (runWord 0x00EE { State.reset.push 0x200 with pc := 0xA00 }) (fun t => (t.sp, t.pc)) =
    some (0, 0x202) := by decide
/-- T6. -/
theorem test_ret_underflow : faultOf (runWord 0x00EE State.reset) = some (.stackUnderflow 0x200) := by decide
/-- T7. -/
theorem test_jp : view (runWord 0x1234 State.reset) (·.pc) = some 0x234 := by decide
/-- T8, first step. -/
theorem test_jp_self_ticks : view (runWord 0x1200 { State.reset with dt := 3 }) (fun t => (t.pc, t.dt)) =
    some (0x200, 2) := by decide
/-- T10. -/
theorem test_call : view (runWord 0x2ABC State.reset) (fun t => (t.stackEntry 0, t.sp, t.pc)) =
    some (0x200, 1, 0xABC) := by decide
/-- T13. -/
theorem test_call_overflow_at_15 :
    faultOf (runWord 0x2ABC (withConfig { defaultConfig with stackDepth := .fifteen } { State.reset with sp := 15 })) =
      some (.stackOverflow 0x200) := by decide
/-- T14. -/
theorem test_jpV0 : view (runWord 0xB300 (State.reset.setV 0 0x10)) (·.pc) = some 0x310 := by decide
/-- T15. -/
theorem test_jpV0_unmasked : view (runWord 0xBF01 (State.reset.setV 0 0xFF)) (·.pc) = some 0x1000 := by decide

/-! ### Skips -/

/-- T17, T18. -/
theorem test_seByte : view (runWord 0x3342 (State.reset.setV 3 0x42)) (·.pc) = some 0x204 ∧
    view (runWord 0x3342 (State.reset.setV 3 0x41)) (·.pc) = some 0x202 := by decide
/-- T19, T20. -/
theorem test_sneByte : view (runWord 0x4342 (State.reset.setV 3 0x41)) (·.pc) = some 0x204 ∧
    view (runWord 0x4342 (State.reset.setV 3 0x42)) (·.pc) = some 0x202 := by decide
/-- T21, T22. -/
theorem test_seReg : view (runWord 0x5120 ((State.reset.setV 1 7).setV 2 7)) (·.pc) = some 0x204 ∧
    view (runWord 0x5120 ((State.reset.setV 1 7).setV 2 8)) (·.pc) = some 0x202 := by decide
/-- T24, T25. -/
theorem test_sneReg : view (runWord 0x9120 ((State.reset.setV 1 7).setV 2 8)) (·.pc) = some 0x204 ∧
    view (runWord 0x9440 State.reset) (·.pc) = some 0x202 := by decide

/-! ### Register and immediate -/

/-- T42. -/
theorem test_ldByte : view (runWord 0x6A5C State.reset) (·.getV 10) = some 0x5C := by decide
/-- T44. -/
theorem test_addByte_wraps : view (runWord 0x7220 ((State.reset.setV 2 0xF0).setV 15 9))
    (fun t => (t.getV 2, t.getV 15)) = some (0x10, 9) := by decide

/-! ### The ALU -/

/-- T48. -/
theorem test_ldReg : view (runWord 0x8010 (aluState 0 0x33)) resultAndFlag = some (0x33, 0x55) := by decide
/-- T50. -/
theorem test_orReg : view (runWord 0x8011 (aluState 0x0C 0x0A)) resultAndFlag = some (0x0E, 0x55) := by decide
/-- T51. -/
theorem test_andReg : view (runWord 0x8012 (aluState 0x0C 0x0A)) resultAndFlag = some (0x08, 0x55) := by decide
/-- T52. -/
theorem test_xorReg : view (runWord 0x8013 (aluState 0x0C 0x0A)) resultAndFlag = some (0x06, 0x55) := by decide
/-- S2. -/
theorem test_addReg : view (runWord 0x8014 (aluState 0xFF 0xFF)) resultAndFlag = some (0xFE, 1) := by decide
/-- T58, both values of `FLAG_LAST`. -/
theorem test_addReg_into_vf :
    view (runWord 0x8F14 ((State.reset.setV 15 0x10).setV 1 0xF5)) (·.getV 15) = some 1 ∧
    view (runWord 0x8F14 (withConfig { defaultConfig with flagLast := false } ((State.reset.setV 15 0x10).setV 1 0xF5)))
      (·.getV 15) = some 0x05 := by decide
/-- S3. -/
theorem test_sub : view (runWord 0x8015 (aluState 0xFF 0x03)) resultAndFlag = some (0xFC, 1) ∧
    view (runWord 0x8015 (aluState 0x00 0x01)) resultAndFlag = some (0xFF, 0) := by decide
/-- T60. -/
theorem test_sub_equal : view (runWord 0x8015 (aluState 0x05 0x05)) resultAndFlag = some (0x00, 1) := by decide
/-- T69. -/
theorem test_shr : view (runWord 0x8006 (aluState 0xFF 0)) resultAndFlag = some (0x7F, 1) := by decide
/-- T70, both values of `SHIFT_SOURCE`. -/
theorem test_shr_source : view (runWord 0x8016 (aluState 0 3)) resultAndFlag = some (0x00, 0) ∧
    view (runWord 0x8016 (withConfig { defaultConfig with shiftSource := .vy } (aluState 0 3))) resultAndFlag =
      some (0x01, 1) := by decide
/-- T64, T65. -/
theorem test_subn : view (runWord 0x8017 (aluState 0x05 0x03)) resultAndFlag = some (0xFE, 0) ∧
    view (runWord 0x8017 (aluState 0x03 0xFF)) resultAndFlag = some (0xFC, 1) := by decide
/-- T72, T73. -/
theorem test_shl : view (runWord 0x800E (aluState 0x80 0)) resultAndFlag = some (0x00, 1) ∧
    view (runWord 0x800E (aluState 0x7F 0)) resultAndFlag = some (0xFE, 0) := by decide
/-- T75, `SHIFT_SOURCE` = VY. -/
theorem test_shl_source :
    view (runWord 0x801E (withConfig { defaultConfig with shiftSource := .vy } (aluState 0 0x81))) resultAndFlag =
      some (0x02, 1) := by decide

/-! ### Index and random -/

/-- T76. -/
theorem test_ldI : view (runWord 0xA123 State.reset) (·.ireg) = some 0x123 := by decide
/-- T77, T78. -/
theorem test_addI : view (runWord 0xF01E { State.reset.setV 0 1 with ireg := 0xFFF }) (·.ireg) = some 0x1000 ∧
    view (runWord 0xF01E { State.reset.setV 0 2 with ireg := 0xFFFF }) (·.ireg) = some 0x0001 := by decide
/-- T80: the draw is consumed whatever the mask. -/
theorem test_rnd_consumes : view (runWord 0xC300 State.reset) (·.draws) = some 1 := by decide
/-- T79, with the draw as a premise (log 5). -/
theorem test_rnd_masks (h : Config.randDraw 0 = 0xB6) (s : State) (hs : s.draws = 0) :
    view (exec (.rnd 3 0x0F) s) (·.getV 3) = some 0x06 := by
  simp [exec, execRnd, view, State.randByte, hs, h]

/-! ### Drawing -/

/-- S7. -/
theorem test_drw_wraps_columns : view (runWord 0xD011 ((withBytes 0x300 [0xFF]).setV 0 60))
    (fun t => ([59, 60, 63, 0, 3, 4].map (fun c => pixel t.fb c 0), t.getV 15)) =
      some ([false, true, true, true, true, false], 0) := by decide
/-- T88. -/
theorem test_drw_collides :
    view (runWord 0xD011 { withBytes 0x300 [0xC0] with fb := setPixel blankFramebuffer 1 0 true })
      (fun t => (pixel t.fb 0 0, pixel t.fb 1 0, t.getV 15)) = some (true, false, 1) := by decide

/-! ### Keys -/

/-- S8. -/
theorem test_skp :
    [none, some 0x5#4, some 0x6#4].map (fun k => view (runWord 0xE09E ((State.reset.setV 0 5).keyPressed k)) (·.pc)) =
      [some 0x202, some 0x204, some 0x202] := by decide
/-- S8 and T97. -/
theorem test_sknp :
    [none, some 0x5#4, some 0x6#4].map (fun k => view (runWord 0xE0A1 ((State.reset.setV 0 5).keyPressed k)) (·.pc)) =
      [some 0x204, some 0x202, some 0x204] ∧
    view (runWord 0xE2A1 ((State.reset.setV 2 0x15).keyPressed (some 5))) (·.pc) = some 0x204 := by decide
/-- T99. -/
theorem test_ldVxK_nop : view (runWord 0xF30A ((State.reset.setV 3 0x44).keyPressed (some 0xA)))
    (fun t => (t.getV 3, t.pc)) = some (0x44, 0x202) := by decide
/-- T100 and the first step of T101. -/
theorem test_ldVxK_block :
    view (runWord 0xF30A (withConfig { defaultConfig with keyWait := .block } (State.reset.keyPressed (some 0xA))))
      (fun t => (t.getV 3, t.pc)) = some (0x0A, 0x202) ∧
    view (runWord 0xF30A (withConfig { defaultConfig with keyWait := .block } { State.reset with dt := 2 }))
      (fun t => (t.pc, t.dt)) = some (0x200, 1) := by decide

/-! ### Timers and memory -/

/-- T103. -/
theorem test_ldVxDt : view (runWord 0xF407 { State.reset with dt := 9 }) (fun t => (t.getV 4, t.dt)) =
    some (9, 8) := by decide
/-- T104, T105. -/
theorem test_ldDtVx : view (runWord 0xF115 (State.reset.setV 1 5)) (·.dt) = some 4 ∧
    view (runWord 0xF115 { State.reset with dt := 7 }) (·.dt) = some 0 := by decide
/-- T107. -/
theorem test_ldStVx : view (runWord 0xF118 (State.reset.setV 1 5)) (·.st) = some 4 := by decide
/-- T108. -/
theorem test_tick : view (runWord 0x0000 { State.reset with dt := 1, st := 3 }) (fun t => (t.dt, t.st)) =
    some (0, 2) := by decide
/-- T110. -/
theorem test_ldF : view (runWord 0xF729 (State.reset.setV 7 0x0F)) (·.ireg) = some 0x04B := by decide
/-- T111. -/
theorem test_ldF_range : faultOf (runWord 0xF729 (State.reset.setV 7 0x10)) = some (.rangeError 0x200 0x10) := by decide
/-- S6. -/
theorem test_ldB : view (runWord 0xF333 { State.reset.setV 3 123 with ireg := 0x300 })
    (fun t => (t.mem.readBytes 0x300 3, t.ireg)) = some ([1, 2, 3], 0x300) := by decide
/-- T115. -/
theorem test_ldB_bounds : faultOf (runWord 0xF333 { State.reset.setV 3 9 with ireg := 0xFFE }) =
    some (.memoryBounds 0x200 0x1000) := by decide
/-- T117. -/
theorem test_stBlock :
    view (runWord 0xF255 { ((State.reset.setV 0 1).setV 1 2).setV 2 3 with ireg := 0x400 })
      (fun t => (t.mem.readBytes 0x400 4, t.ireg)) = some ([1, 2, 3, 0], 0x403) := by decide
/-- T124: the glyph table is writable. -/
theorem test_stBlock_over_font : view (runWord 0xF055 (State.reset.setV 0 0xFF)) (fun t => t.mem.read 0) =
    some 0xFF := by decide
/-- T121. -/
theorem test_ldBlock : view (runWord 0xF265 ((withBytes 0x400 [7, 8, 9]).setV 3 0x66))
    (fun t => (t.getV 0, t.getV 1, t.getV 2, t.getV 3, t.ireg)) = some (7, 8, 9, 0x66, 0x403) := by decide
/-- T122. -/
theorem test_ldBlock_all : view (runWord 0xFF65 { withBytes 0x40F [0xEE] with ireg := 0x400 })
    (fun t => (t.getV 15, t.ireg)) = some (0xEE, 0x410) := by decide

/-! ### The cycle, faults, load -/

/-- T31, T32. -/
theorem test_fetch_at_the_top : faultOf (step { State.reset with pc := 0xFFF }) = some (.memoryBounds 0xFFF 0x1000) ∧
    view (runWord 0x00E0 { State.reset with pc := 0xFFE }) (·.pc) = some 0x1000 := by decide
/-- T39: a faulting cycle does not tick. -/
theorem test_decode_error : ((State.withFetchWord { State.reset with dt := 5 } 16 0xFFFF).runCycle.2,
    (State.withFetchWord { State.reset with dt := 5 } 16 0xFFFF).runCycle.1.dt) =
      (.faulted (.decodeError 0x200 0xFFFF), 5) := by decide
/-- T126. -/
theorem test_load : view (State.reset.load [0x12, 0x00]) (fun t => (t.mem.readBytes 0x200 2, t.pc)) =
    some ([0x12, 0x00], 0x200) := by decide

/-! ### Witnesses: the hypotheses of every statement are met, each clause at a boundary of its range -/

theorem witness_DecodeInvertsEncode : (Instr.sys 0x0E1).wf = true ∧ (Instr.drw 15 15 15).wf = true := by decide
theorem witness_EncodeInvertsStrictDecode : decodeWord true 0x9FF0 = .instr (.sneReg 15 15) := by decide
theorem witness_DecoderFollowsTheOpcodeMap : 34 < 35 := by decide
theorem witness_FamilyZeroDecodesWithoutError :
    fieldF 0x00E0 = 0 ∧ fieldF 0x00EE = 0 ∧ fieldF 0x00EF = 0 ∧ (0x00EF : Word) ≠ 0x00E0 ∧ (0x00EF : Word) ≠ 0x00EE := by
  decide
theorem witness_CompareFamiliesAndStrictness :
    fieldF 0x500F = 0x5 ∧ fieldN 0x500F ≠ 0 ∧ fieldF 0x9001 = 0x9 ∧ fieldN 0x9001 ≠ 0 := by decide

/-- A machine at the last address a word can be fetched from, with a word there. -/
def topState (w : Nat) : State := State.withFetchWord { State.reset with pc := 0xFFE } 16 w

theorem witness_StepRunsTheDecodedInstruction :
    (topState 0x6A5C).fault = none ∧ (topState 0x6A5C).pc.toNat + 1 < 4096 ∧
    decodeAtPC (topState 0x6A5C) = (.instr (.ldByte 10 0x5C), []) := by decide
theorem witness_FetchAndDecodeFaults :
    (topState 0xFFFF).fault = none ∧ (topState 0xFFFF).pc.toNat < 4095 ∧
    decodeAtPC (topState 0xFFFF) = (.reject .miscByte, []) ∧
    State.reset.fault = none ∧ 4096 ≤ ({ State.reset with pc := 0x1000 } : State).pc.toNat ∧
    ({ State.reset with pc := 0xFFF } : State).pc.toNat = 4095 := by decide
theorem witness_FaultedMachineIsAbsorbing :
    (topState 0xFFFF).runCycle.2 = .faulted (.decodeError 0xFFE 0xFFFF) ∧
    ({ State.reset with fault := some (.stackUnderflow 0x200) } : State).fault = some (.stackUnderflow 0x200) ∧
    (view (({ State.reset with fault := some (.stackUnderflow 0x200) } : State).load []) (·.pc)).isSome = true := by decide
theorem witness_FaultingCycleCommitsNothing :
    (topState 0x00EE).fault = none ∧ (topState 0x00EE).runCycle.2 = .faulted (.stackUnderflow 0xFFE) := by decide
theorem witness_InstructionsFaultExactlyOnTheirOwnCheck :
    ({ State.reset with sp := 16 } : State).sp.toNat ≤ ({ State.reset with sp := 16 } : State).cfg.stackDepth.toNat := by
  decide

/-- A state inside a subroutine, with one live stack entry and a word to run. -/
def calledState : State := State.withFetchWord ((State.reset.push 0xFFE).jump 0x300) 16 0x00EE

theorem calledState_inv : calledState.Inv := by
  refine ⟨by decide, by decide, by decide, fun k hk => ?_, fun f hf => by cases hf⟩
  have h0 : k = 0 := by
    have : calledState.sp.toNat = 1 := by decide
    omega
  subst h0
  decide

theorem witness_StepNeverRefuses : calledState.Inv := calledState_inv
theorem witness_StepKeepsInvariant : calledState.Inv ∧ (view (step calledState) (·.pc)) = some 0x1000 :=
  ⟨calledState_inv, by decide⟩
theorem witness_EveryRunKeepsInvariant :
    view ((State.construct { defaultConfig with resetPolicy := .arbitrary } { zeroDraw with pc := 0xFFFF }).load [0x12, 0x00])
      (·.pc) = some 0x200 := by decide +kernel
theorem witness_StepKeepsParametersAndKey : (view (step calledState) (·.sp)) = some 0 := by decide
theorem witness_ConstructionValues : defaultConfig.resetPolicy = .zero ∧
    ({ defaultConfig with resetPolicy := .arbitrary } : Config).resetPolicy = .arbitrary := by decide
theorem witness_LoadPlacesTheImage :
    (List.replicate 3584 (0 : Byte)).length ≤ 3584 ∧ (List.replicate 3585 (0 : Byte)).length > 3584 := by
  simp only [List.length_replicate]; decide
theorem witness_LoadPlacesTheImage_empty :
    State.reset.fault = none ∧ State.reset.mem.read 0x200 = 0 ∧ State.reset.mem.read 0x201 = 0 := by decide
theorem witness_SysHasNoEffect : (0x0EF : Addr12) ≠ 0x0E0 ∧ (0x0EF : Addr12) ≠ 0x0EE := by decide
theorem witness_RetPopsAndResumesAfterTheCall :
    State.reset.sp.toNat = 0 ∧ 0 < ({ State.reset with sp := 16 } : State).sp.toNat ∧
    ({ State.reset with sp := 16 } : State).sp.toNat ≤ ({ State.reset with sp := 16 } : State).cfg.stackDepth.toNat := by
  decide
theorem witness_CallPushesItsOwnAddress :
    ({ State.reset with sp := 16 } : State).sp.toNat = State.reset.cfg.stackDepth.toNat ∧
    ({ State.reset with sp := 15 } : State).sp.toNat < State.reset.cfg.stackDepth.toNat := by decide
theorem witness_ReturnResumesAfterTheCall :
    ({ State.reset with sp := 15 } : State).sp.toNat < State.reset.cfg.stackDepth.toNat ∧
    view (exec (.call 0x300) { State.reset with sp := 15 }) (·.sp) = some 16 := by decide
theorem witness_RegisterSkips : (0xF : Nibble) ≠ 0 := by decide
theorem witness_FlagWrite : (0 : RegIdx) ≠ vf ∧ (15 : RegIdx) = vf := by decide
theorem witness_OnlyFlagWritersTouchVF :
    view (exec (.ldByte 14 1) State.reset) (·.pc) = some 0x202 ∧ writesFlag (.ldByte 14 1) = false ∧
    vf ∉ (footprint (.ldByte 14 1) State.reset).regs ∧
    view (exec (.addReg 15 1) State.reset) (·.pc) = some 0x202 ∧ writesFlag (.addReg 15 1) = true ∧
    State.reset.cfg.flagLast = true ∧ resultIsVF (.addReg 14 1) = false := by decide
theorem witness_DrawHasItsClosedForm : (List.replicate 15 (0xFF : Byte)).length ≤ 15 := by decide
theorem witness_DrawingTwiceRestores : (List.replicate 15 (0xFF : Byte)).length ≤ 15 := by decide
theorem witness_NoPixelIsDrawnTwice : 14 < 15 ∧ 7 < 8 ∧ pixelColumn 255 7 = pixelColumn 255 7 ∧
    pixelRow 255 14 = pixelRow 255 14 := by decide
theorem witness_DrwDrawsTheSpriteAtI :
    (0x0 : Nibble).toNat = 0 ∧ (0xFF1 : Word).toNat + (0xF : Nibble).toNat ≤ 4096 ∧
    (0xF : Nibble).toNat ≠ 0 ∧ (0xFF2 : Word).toNat + (0xF : Nibble).toNat > 4096 := by decide
theorem witness_KeySkips :
    ((State.reset.setV 0 0xF).keyPressed (some 0xF)).keySlot = some 0xF ∧
    (0xF : Nibble).toNat = ((State.reset.setV 0 0xF).getV 0).toNat ∧
    State.reset.keySlot = none ∧ (0xF : Nibble).toNat ≠ ((State.reset.setV 0 0x1F).getV 0).toNat := by decide
theorem witness_WaitForKey :
    defaultConfig.keyWait = .nop ∧ ({ defaultConfig with keyWait := .block } : Config).keyWait = .block ∧
    State.reset.keySlot = none ∧ (State.reset.keyPressed (some 0xF)).keySlot = some 0xF := by decide
theorem witness_EveryCompletedCycleTicksOnce :
    decodeAtPC (topState 0xF115) = (.instr (.ldDtVx 1), []) ∧ view (exec (.ldDtVx 1) (topState 0xF115)) (·.dt) = some 0 ∧
    view (step (topState 0xF115)) (·.dt) = some 0 ∧
    (topState 0x00EE).runCycle.2 = .faulted (.stackUnderflow 0xFFE) := by decide
theorem witness_EveryCompletedCycleTicksOnce_other :
    (∀ x, Instr.cls ≠ .ldDtVx x) ∧ (∀ x, Instr.cls ≠ .ldStVx x) := by decide
theorem witness_WrittenCounterTicksInItsOwnCycle :
    (topState 0xFF15).fault = none ∧ (topState 0xFF15).pc.toNat + 1 < 4096 ∧
    decodeAtPC (topState 0xFF15) = (.instr (.ldDtVx 15), []) ∧
    decodeAtPC (topState 0xF018) = (.instr (.ldStVx 0), []) := by decide
theorem witness_LdFPointsAtTheGlyph :
    ((State.reset.setV 0 16).getV 0).toNat ≥ 16 ∧ ((State.reset.setV 0 15).getV 0).toNat < 16 := by decide
theorem witness_LdBStoresThreeDigits : (0xFFD : Word).toNat + 2 < 4096 ∧ (0xFFE : Word).toNat + 2 ≥ 4096 := by decide
theorem witness_BlockStore :
    (0xFF0 : Word).toNat + (15 : RegIdx).val < 4096 ∧ (0xFF1 : Word).toNat + (15 : RegIdx).val ≥ 4096 := by decide
theorem witness_BlockLoad :
    (0xFFF : Word).toNat + (0 : RegIdx).val < 4096 ∧ (0x1000 : Word).toNat + (0 : RegIdx).val ≥ 4096 := by decide
theorem witness_EveryInstructionKeepsItsFrame :
    view (exec (.stBlock 15) { State.reset with ireg := 0xFF0 }) (·.ireg) = some 0x1000 := by decide
theorem witness_OnlyNamedInstructionsWriteMemoryScreenAndStack :
    decodeAtPC (topState 0x2300) = (.instr (.call 0x300), []) ∧ view (step (topState 0x2300)) (·.sp) = some 1 ∧
    State.reset.sp ≠ 1 := by decide
theorem witness_PcMovesByClass :
    view (exec .cls State.reset) (·.pc) = some 0x202 ∧ pcClass .cls = .next ∧
    view (exec (.skp 0) State.reset) (·.pc) = some 0x202 ∧ pcClass (.skp 0) = .skip ∧
    view (exec (.ldVxK 0) State.reset) (·.pc) = some 0x202 ∧ pcClass (.ldVxK 0) = .wait := by decide
theorem witness_KeyIsSeenOnlyByKeyInstructions :
    (∀ x, Instr.cls ≠ .skp x) ∧ (∀ x, Instr.cls ≠ .sknp x) ∧ ∀ x, Instr.cls ≠ .ldVxK x := by decide
theorem witness_MemoryIsDeterminedByItsBytes :
    Memory.wf [(0, 0xFF), (4095, 1)] ∧ Memory.read [(0, 0xFF), (4095, 1)] 4095 = 1 := by decide
/-- A block store over the last two bytes of memory, run from just below them. -/
def storeState : State := State.withFetchWord { State.reset.setV 1 0x5A with pc := 0xFFC, ireg := 0xFFE } 16 0xF155

theorem witness_StoredBytesAreFetched :
    decodeAtPC storeState = (.instr (.stBlock 1), []) ∧ view (step storeState) (·.pc) = some 0xFFE ∧
    (0xFFE : Word).toNat + 1 < 4096 ∧ overlaid storeState.mem 0xFFE (storedBytes (.stBlock 1) storeState) 0xFFF = 0x5A ∧
    decodeAtPC (topState 0xF033) = (.instr (.ldB 0), []) ∧ view (step (topState 0xF033)) (·.pc) = some 0x1000 := by
  decide

end Sys2Proof.Tests
end

section
/-! The state right after construction, field by field (spec/10_state.md R38). -/

namespace Sys2Proof.Machine

/-- A register file of zeros reads 0 in every register. -/
theorem State.getV_of_v_zero {s : State} (h : s.v = Vector.replicate 16 0) (r : RegIdx) : s.getV r = 0 := by
  simp [State.getV, h]

/-- A stack of zeros reads 0 at every depth, past its sixteenth entry too. -/
theorem State.stackEntry_of_stack_zero {s : State} (h : s.stack = Vector.replicate 16 0) (k : Nat) :
    s.stackEntry k = 0 := by
  rw [State.stackEntry, h, Vector.toList_replicate]
  rcases Nat.lt_or_ge k 16 with hk | hk
  · exact List.getD_replicate 0 hk
  · exact List.getD_eq_default _ _ (by simpa using hk)

/-- Memory at reset lists nothing, so every address reads its unlisted byte. -/
theorem State.reset_mem_read (a : Nat) : State.reset.mem.read a = unlistedByte a := Memory.read_nil a

/-- Settles O18: registers and stack are all zeros, the framebuffer is blank, and memory lists nothing, so it reads the
glyph table below 0x050 and 0 from there on. -/
theorem resetValues : Obligations.ResetValues := by
  have hv : ∀ r, State.reset.getV r = 0 := State.getV_of_v_zero rfl
  have hstack : ∀ k, State.reset.stackEntry k = 0 := State.stackEntry_of_stack_zero rfl
  have hfont : ∀ a, a < 80 → State.reset.mem.read a = defaultFont.toList.getD a 0 :=
    fun a _ => State.reset_mem_read a
  have hfree : ∀ a, 0x050 ≤ a → State.reset.mem.read a = 0 :=
    fun a ha => (State.reset_mem_read a).trans (unlistedByte_of_ge a ha)
  exact ⟨rfl, rfl, rfl, rfl, rfl, rfl, rfl, rfl, rfl, hv, hstack, pixel_blank, hfont,
    hfont 0x000 (by decide), hfont 0x04F (by decide), hfree⟩

end Sys2Proof.Machine
end

section
/-! What an instruction that completes can do, said once: the inversions of the instructions that check something, the
frame of each state update and of all 35 instructions, where PC goes, and what happens to the return stack. -/

namespace Sys2Proof.Machine

variable {s t u : State} {i : Instr}

/-! ### The instructions that check something -/

/-- A range check that lets an instruction complete found every address in memory. -/
theorem State.withRange_next {a k : Nat} (h : s.withRange a k (.next u) = .next t) :
    (k = 0 ∨ a + k ≤ memSize) ∧ t = u := by
  rcases State.withRange_cases a s k (.next u) with ⟨hfit, e⟩ | ⟨-, e⟩ <;> cases e.symm.trans h
  exact ⟨hfit, rfl⟩

theorem execRet_next (h : execRet s = .next t) :
    0 < s.sp.toNat ∧ s.sp.toNat ≤ s.cfg.stackDepth.toNat ∧ t = s.pop.jump (s.topOfStack + 2) := by
  unfold execRet raise at h
  split at h
  · cases h
  · split at h
    · cases h
      exact ⟨Nat.pos_of_ne_zero fun h0 => ‹s.sp ≠ 0› (BitVec.eq_of_toNat_eq h0), ‹_›, rfl⟩
    · cases h

theorem execCall_next {nnn : Addr12} (h : execCall nnn s = .next t) :
    s.sp.toNat < s.cfg.stackDepth.toNat ∧ t = (s.push s.pc).jump (zextAddr nnn) := by
  unfold execCall raise at h
  split at h
  · cases h
  · split at h <;> cases h
    exact ⟨‹_›, rfl⟩

theorem execLdF_next {x : RegIdx} (h : execLdF x s = .next t) :
    t = (s.setI (BitVec.ofNat 16 (5 * (s.getV x).toNat))).advance := by
  unfold execLdF raise at h
  split at h <;> cases h
  rfl

/-- `LD Vx,K` goes on (`KEY_WAIT` = `NOP`), or under `BLOCK` stays without a key and takes the key that is held
(spec/46_key.md R223). -/
theorem execLdVxK_next {x : RegIdx} (h : execLdVxK x s = .next t) :
    t = s.advance ∨ s.cfg.keyWait = .block ∧ (t = s.stay ∨ ∃ k, t = (s.setV x (zextKey k)).advance) := by
  unfold execLdVxK at h
  split at h
  · cases h; exact .inl rfl
  · split at h <;> cases h
    · exact .inr ⟨‹_›, .inl rfl⟩
    · exact .inr ⟨‹_›, .inr ⟨_, rfl⟩⟩

theorem State.withRange_ne_refused {a k : Nat} {r : Refusal} : s.withRange a k (.next u) ≠ .refused r := by
  rcases State.withRange_cases a s k (.next u) with ⟨-, e⟩ | ⟨-, e⟩ <;> rw [e] <;> nofun

/-- Only `CALL` and `RET` are ever refused, and only with SP outside the range of spec/10_state.md R26 (log 8). -/
theorem sp_out_of_range_of_exec_refused {r : Refusal} (h : exec i s = .refused r) :
    s.cfg.stackDepth.toNat < s.sp.toNat := by
  cases i
  case ret | call =>
    simp only [exec, execRet, execCall, raise] at h
    (repeat' split at h) <;> cases h
    omega
  case ldF => simp only [exec, execLdF, raise] at h; split at h <;> cases h
  case ldVxK => simp only [exec, execLdVxK] at h; (repeat' split at h) <;> cases h
  case drw | ldB | stBlock | ldBlock => exact absurd h State.withRange_ne_refused
  all_goals cases h

/-! ### The frame of each state update -/

namespace Footprint

variable {f : Footprint}

theorem covers_refl (f : Footprint) (s : State) : f.covers s s :=
  ⟨⟨rfl, rfl, rfl⟩, fun _ _ => rfl, fun _ _ => rfl, fun _ => rfl, fun _ => ⟨rfl, rfl⟩, fun _ => rfl, fun _ => rfl,
    fun _ => ⟨rfl, rfl⟩, fun _ => rfl⟩

theorem covers.advance (h : f.covers s t) : f.covers s t.advance := h

theorem covers.jump (h : f.covers s t) (w : Word) : f.covers s (t.jump w) := h

theorem covers.skipIf (h : f.covers s t) (c : Bool) : f.covers s (t.skipIf c) := by cases c <;> exact h

theorem covers.setV (h : f.covers s t) {r : RegIdx} (hr : r ∈ f.regs) (b : Byte) : f.covers s (t.setV r b) := by
  obtain ⟨hcfg, hreg, hrest⟩ := h
  refine ⟨hcfg, fun q hq => ?_, hrest⟩
  rw [State.getV_setV, if_neg (ne_of_mem_of_not_mem hr hq).symm, hreg q hq]

theorem covers.writeRF (h : f.covers s t) {x : RegIdx} (hx : x ∈ f.regs) (hf : vf ∈ f.regs) (r b : Byte) :
    f.covers s (t.writeRF x r b) := by
  unfold State.writeRF
  split
  · exact (h.setV hx r).setV hf b
  · exact (h.setV hf b).setV hx r

theorem covers.loadRegs (h : f.covers s t) (vals : List Byte) (hr : ∀ q : RegIdx, q.val < vals.length → q ∈ f.regs) :
    f.covers s (t.loadRegs vals) := by
  obtain ⟨hcfg, hreg, hrest⟩ := h
  refine ⟨hcfg, fun q hq => ?_, hrest⟩
  rw [State.getV_loadRegs, if_neg fun hlt => hq (hr q hlt), hreg q hq]

theorem covers.setI (h : f.covers s t) (hi : f.index = true) (w : Word) : f.covers s (t.setI w) := by
  obtain ⟨hcfg, hreg, hmem, -, hrest⟩ := h
  exact ⟨hcfg, hreg, hmem, by simp [hi], hrest⟩

theorem covers.setDT (h : f.covers s t) (hd : f.delay = true) (b : Byte) : f.covers s (t.setDT b) := by
  obtain ⟨hcfg, hreg, hmem, hidx, hstk, -, hrest⟩ := h
  exact ⟨hcfg, hreg, hmem, hidx, hstk, by simp [hd], hrest⟩

theorem covers.setST (h : f.covers s t) (hs : f.sound = true) (b : Byte) : f.covers s (t.setST b) := by
  obtain ⟨hcfg, hreg, hmem, hidx, hstk, hdt, -, hrest⟩ := h
  exact ⟨hcfg, hreg, hmem, hidx, hstk, hdt, by simp [hs], hrest⟩

theorem covers.setFb (h : f.covers s t) (hs : f.screen = true) (fb : Framebuffer) : f.covers s (t.setFb fb) := by
  obtain ⟨hcfg, hreg, hmem, hidx, hstk, hdt, hst, -, hdraw⟩ := h
  exact ⟨hcfg, hreg, hmem, hidx, hstk, hdt, hst, by simp [hs], hdraw⟩

theorem covers.emit (h : f.covers s t) (hs : f.screen = true) (es : List DisplayEvent) : f.covers s (t.emit es) := by
  obtain ⟨hcfg, hreg, hmem, hidx, hstk, hdt, hst, -, hdraw⟩ := h
  exact ⟨hcfg, hreg, hmem, hidx, hstk, hdt, hst, by simp [hs], hdraw⟩

theorem covers.consumeDraw (h : f.covers s t) (hd : f.draw = true) : f.covers s t.consumeDraw := by
  obtain ⟨hcfg, hreg, hmem, hidx, hstk, hdt, hst, hscr, -⟩ := h
  exact ⟨hcfg, hreg, hmem, hidx, hstk, hdt, hst, hscr, by simp [hd]⟩

theorem covers.push (h : f.covers s t) (hc : f.callStack = true) (w : Word) : f.covers s (t.push w) := by
  obtain ⟨hcfg, hreg, hmem, hidx, -, hrest⟩ := h
  exact ⟨hcfg, hreg, hmem, hidx, by simp [hc], hrest⟩

theorem covers.pop (h : f.covers s t) (hc : f.callStack = true) : f.covers s t.pop := by
  obtain ⟨hcfg, hreg, hmem, hidx, -, hrest⟩ := h
  exact ⟨hcfg, hreg, hmem, hidx, by simp [hc], hrest⟩

/-- A run of stores whose addresses are all in the footprint. -/
theorem covers.store (h : f.covers s t) {base : Nat} {bs : List Byte} (hb : f.bytes = byteRange base bs.length) :
    f.covers s (t.setMem (Memory.writeBytes t.mem base bs)) := by
  obtain ⟨hcfg, hreg, hmem, hrest⟩ := h
  refine ⟨hcfg, hreg, fun a ha => ?_, hrest⟩
  have hout : ¬(base ≤ a ∧ a < base + bs.length) := fun ⟨hle, hlt⟩ =>
    ha (hb ▸ List.mem_map.mpr ⟨a - base, List.mem_range.mpr (by omega), by omega⟩)
  rw [State.setMem_mem, Memory.read_writeBytes, if_neg hout, hmem a ha]

end Footprint

/-! ### The frame of an instruction -/

/-- The number of registers a block transfer moves is at most all of them. -/
theorem blockLength_le (x : RegIdx) : blockLength x ≤ 16 := x.isLt

/-- An instruction that completes changes nothing outside its footprint but PC. -/
theorem exec_covers (h : exec i s = .next t) : (footprint i s).covers s t := by
  have start := Footprint.covers_refl (footprint i s) s
  cases i
  case sys | jp | jpV0 => cases h; exact start
  case seByte | sneByte | seReg | sneReg | skp | sknp => cases h; exact start.skipIf _
  case cls => cases h; exact (start.setFb rfl _).emit rfl _
  case ret => obtain ⟨-, -, rfl⟩ := execRet_next h; exact start.pop rfl
  case call => obtain ⟨-, rfl⟩ := execCall_next h; exact start.push rfl _
  case ldByte | addByte | ldReg | orReg | andReg | xorReg | ldVxDt =>
    cases h; exact start.setV (List.mem_singleton_self _) _
  case addReg | sub | shr | subn | shl => cases h; exact start.writeRF (by simp [footprint]) (by simp [footprint]) _ _
  case ldI | addI => cases h; exact start.setI rfl _
  case ldF => cases execLdF_next h; exact start.setI rfl _
  case rnd => cases h; exact (start.consumeDraw rfl).setV (List.mem_singleton_self _) _
  case drw =>
    obtain ⟨-, rfl⟩ := State.withRange_next h
    exact ((start.setFb rfl _).setV (List.mem_singleton_self _) _).emit rfl _
  case ldVxK =>
    rcases execLdVxK_next h with rfl | ⟨hblock, rfl | ⟨k, rfl⟩⟩
    · exact start
    · exact start
    · exact start.setV (by simp [footprint, hblock]) _
  case ldDtVx => cases h; exact start.setDT rfl _
  case ldStVx => cases h; exact start.setST rfl _
  case ldB => obtain ⟨-, rfl⟩ := State.withRange_next h; exact start.store rfl
  case stBlock x =>
    obtain ⟨-, rfl⟩ := State.withRange_next h
    exact (start.store (by rw [State.regsUpTo_length s _ (blockLength_le x)]; rfl)).setI rfl _
  case ldBlock x =>
    obtain ⟨-, rfl⟩ := State.withRange_next h
    have hnamed : ∀ q : RegIdx, q.val < (Memory.readBytes s.mem s.ireg.toNat (blockLength x)).length →
        q ∈ (footprint (.ldBlock x) s).regs := fun q hq => by
      rw [Memory.readBytes_length] at hq
      exact List.mem_filter.mpr ⟨List.mem_finRange q, decide_eq_true (Nat.le_of_lt_succ hq)⟩
    exact (start.loadRegs _ hnamed).setI rfl _

theorem exec_cfg (h : exec i s = .next t) : t.cfg = s.cfg :=
  let ⟨⟨hcfg, _, _⟩, _⟩ := exec_covers h; hcfg

theorem exec_keySlot (h : exec i s = .next t) : t.keySlot = s.keySlot :=
  let ⟨⟨_, hkey, _⟩, _⟩ := exec_covers h; hkey

theorem exec_fault (h : exec i s = .next t) : t.fault = s.fault :=
  let ⟨⟨_, _, hfault⟩, _⟩ := exec_covers h; hfault

/-! ### Where PC goes and what happens to the return stack -/

/-- The ways an instruction that completes in `s` may leave PC (spec/10_state.md R25, spec/30_encoding.md R91). -/
inductive PcMove (s : State) : Word → Prop where
  | stay : PcMove s s.pc
  | next : PcMove s (s.pc + 2)
  | skip : PcMove s (s.pc + 4)
  | jump (nnn : Addr12) : PcMove s (zextAddr nnn)
  | jumpOffset (nnn : Addr12) (b : Byte) : PcMove s (zextAddr nnn + zextByte b)
  | resume (hlive : 0 < s.sp.toNat) : PcMove s (s.topOfStack + 2)

theorem PcMove.skipIf (s : State) (c : Bool) : PcMove s (s.skipIf c).pc := by
  cases c
  · exact .next
  · exact .skip

/-- An instruction that completes leaves PC in one of these ways. -/
theorem exec_pcMove (h : exec i s = .next t) : PcMove s t.pc := by
  cases i
  case jp nnn => cases h; exact .jump nnn
  case call nnn => obtain ⟨-, rfl⟩ := execCall_next h; exact .jump nnn
  case jpV0 nnn => cases h; exact .jumpOffset nnn _
  case ret => obtain ⟨hlive, -, rfl⟩ := execRet_next h; exact .resume hlive
  case seByte | sneByte | seReg | sneReg | skp | sknp => cases h; exact .skipIf s _
  case ldVxK =>
    rcases execLdVxK_next h with rfl | ⟨-, rfl | ⟨k, rfl⟩⟩
    · exact .next
    · exact .stay
    · exact .next
  case ldF => cases execLdF_next h; exact .next
  case drw | ldB | stBlock | ldBlock => obtain ⟨-, rfl⟩ := State.withRange_next h; exact .next
  case addReg | sub | shr | subn | shl => cases h; rw [State.advance_pc, State.writeRF_pc]; exact .next
  all_goals cases h; exact .next

/-- Only `RET` pops and only `CALL` pushes, both with SP in its range (spec/10_state.md R26). -/
theorem exec_stack_cases (h : exec i s = .next t) :
    (t.sp = s.sp ∧ t.stack = s.stack) ∨
    (i = .ret ∧ 0 < s.sp.toNat ∧ t = s.pop.jump (s.topOfStack + 2)) ∨
    ∃ nnn, i = .call nnn ∧ s.sp.toNat < s.cfg.stackDepth.toNat ∧ t = (s.push s.pc).jump (zextAddr nnn) := by
  obtain ⟨-, -, -, -, hstack, -⟩ := exec_covers h
  cases i
  case ret => obtain ⟨hpos, -, ht⟩ := execRet_next h; exact .inr (.inl ⟨rfl, hpos, ht⟩)
  case call nnn => obtain ⟨hlt, ht⟩ := execCall_next h; exact .inr (.inr ⟨nnn, rfl, hlt, ht⟩)
  all_goals exact .inl (hstack rfl)

/-- What an instruction that completes stores lies in memory (spec/20_memory.md R65). -/
theorem storedBytes_fit (h : exec i s = .next t) :
    storedBytes i s = [] ∨ s.ireg.toNat + (storedBytes i s).length ≤ memSize := by
  cases i
  case ldB =>
    obtain ⟨hfit, -⟩ := State.withRange_next h
    exact .inr (hfit.resolve_left (by decide))
  case stBlock x =>
    obtain ⟨hfit, -⟩ := State.withRange_next h
    rw [storedBytes, State.regsUpTo_length s _ (blockLength_le x)]
    exact .inr (hfit.resolve_left (Nat.succ_ne_zero _))
  all_goals exact .inl rfl

/-! ### From a step to its instruction -/

/-- A fetch that succeeds read two bytes that exist. -/
theorem State.pc_lt_of_fetch {w : Word} (h : s.fetch = .ok w) : s.pc.toNat + 1 < memSize := by
  rw [State.fetch_eq] at h
  split at h
  · assumption
  · cases h

/-- A step that completes executed the instruction whose bytes stand at PC, and then ticked. -/
theorem step_next_of_decodeAtPC (hd : decodeAtPC s = (.instr i, [])) (h : step s = .next t) :
    ∃ u, exec i s = .next u ∧ t = u.tick := by
  obtain ⟨w, j, u, -, hfetch, hdec, hexec, rfl⟩ := step_next_cases h
  have hpc := State.pc_lt_of_fetch hfetch
  rw [State.fetch_eq, if_pos hpc] at hfetch
  cases hfetch
  cases hdec.symm.trans (congrArg Prod.fst hd)
  exact ⟨u, hexec, rfl⟩

end Sys2Proof.Machine
end

section
/-! The machine invariant along a step (spec/10_state.md R25, R26, R27, R34; spec/20_memory.md R60). -/

namespace Sys2Proof.Machine

variable {s t : State} {i : Instr}

/-- What an instruction stores keeps memory in its canonical form. -/
theorem exec_keeps_wf (hwf : s.mem.wf) (h : exec i s = .next t) : t.mem.wf := by
  rw [exec_mem h]
  rcases storedBytes_fit h with hnone | hfit
  · rw [hnone]; exact hwf
  · exact Memory.wf_writeBytes _ _ _ hwf hfit

/-- SP stays a count of at most `STACK_DEPTH` entries. -/
theorem exec_keeps_sp_le (hsp : s.sp.toNat ≤ s.cfg.stackDepth.toNat) (h : exec i s = .next t) :
    t.sp.toNat ≤ t.cfg.stackDepth.toNat := by
  rw [exec_cfg h]
  have hdepth := StackDepth.toNat_le s.cfg.stackDepth
  rcases exec_stack_cases h with ⟨heq, -⟩ | ⟨-, hpos, rfl⟩ | ⟨nnn, -, hlt, rfl⟩
  · rwa [heq]
  · rw [State.jump_sp, State.pop_sp_toNat s hpos]; omega
  · rw [State.jump_sp, State.push_sp_toNat s _ (by omega)]; omega

theorem State.stackEntry_of_stack_eq (h : t.stack = s.stack) (k : Nat) : t.stackEntry k = s.stackEntry k := by
  rw [State.stackEntry, h, State.stackEntry]

/-- A live entry is one that was live before, or the address of the `CALL` just executed (R27). -/
theorem exec_keeps_stackEntry_le (hpc : s.pc.toNat ≤ 0xFFE)
    (hentry : ∀ k, k < s.sp.toNat → (s.stackEntry k).toNat ≤ 0xFFE) (h : exec i s = .next t) :
    ∀ k, k < t.sp.toNat → (t.stackEntry k).toNat ≤ 0xFFE := by
  intro k hk
  have hdepth := StackDepth.toNat_le s.cfg.stackDepth
  rcases exec_stack_cases h with ⟨hsp, hstack⟩ | ⟨-, hpos, rfl⟩ | ⟨nnn, -, hlt, rfl⟩
  · rw [State.stackEntry_of_stack_eq hstack]
    exact hentry k (hsp ▸ hk)
  · rw [State.jump_sp, State.pop_sp_toNat s hpos] at hk
    exact hentry k (by omega)
  · rw [State.jump_sp, State.push_sp_toNat s _ (by omega)] at hk
    rw [State.stackEntry_jump, State.stackEntry_push s _ k (by omega)]
    split
    · exact hpc
    · exact hentry k (by omega)

theorem zextAddr_toNat_le (nnn : Addr12) : (zextAddr nnn).toNat ≤ 0xFFF := by
  have := nnn.isLt
  simp only [zextAddr, BitVec.toNat_setWidth]; omega

theorem zextByte_toNat_le (b : Byte) : (zextByte b).toNat ≤ 0xFF := by
  have := b.isLt
  simp only [zextByte, BitVec.toNat_setWidth]; omega

/-- From an address that can be fetched and live entries that were fetched, PC goes no further than 0x10FE, the largest
target of R25. -/
theorem PcMove.toNat_le {w : Word} (hpc : s.pc.toNat ≤ 0xFFE)
    (hentry : ∀ k, k < s.sp.toNat → (s.stackEntry k).toNat ≤ 0xFFE) (h : PcMove s w) : w.toNat ≤ 0x10FE := by
  cases h with
  | stay => omega
  | next => bv_omega
  | skip => bv_omega
  | jump nnn => have := zextAddr_toNat_le nnn; omega
  | jumpOffset nnn b =>
    have haddr := zextAddr_toNat_le nnn
    have hbyte := zextByte_toNat_le b
    rw [BitVec.toNat_add]; omega
  | resume hlive =>
    have htop : s.topOfStack.toNat ≤ 0xFFE := hentry _ (Nat.sub_lt hlive Nat.one_pos)
    bv_omega

/-- The tick writes none of the fields the invariant speaks of. -/
theorem State.inv_tick : s.tick.Inv ↔ s.Inv := Iff.rfl

/-- Settles O14: the fetch bounds PC by 0xFFE, execute then keeps each clause of the invariant, and so does the tick. -/
theorem stepKeepsInvariant : Obligations.StepKeepsInvariant := by
  rintro s t ⟨hwf, hsp, -, hentry, -⟩ h
  obtain ⟨w, i, u, hnone, hfetch, -, hexec, rfl⟩ := step_next_cases h
  have hpc : s.pc.toNat ≤ 0xFFE := Nat.le_of_lt_succ (Nat.lt_of_succ_lt_succ (State.pc_lt_of_fetch hfetch))
  have hfault : u.fault = none := (exec_fault hexec).trans hnone
  exact State.inv_tick.mpr ⟨exec_keeps_wf hwf hexec, exec_keeps_sp_le hsp hexec, (exec_pcMove hexec).toNat_le hpc hentry,
    exec_keeps_stackEntry_le hpc hentry hexec, fun f hf => nomatch hfault.symm.trans hf⟩

/-- Settles O13: a refusal needs SP above `STACK_DEPTH`. -/
theorem stepNeverRefuses : Obligations.StepNeverRefuses := by
  rintro s r ⟨-, hsp, -⟩ h
  obtain ⟨w, i, -, -, -, hexec⟩ := step_refused_cases h
  exact absurd (sp_out_of_range_of_exec_refused hexec) (Nat.not_lt.mpr hsp)

/-- Settles O17: neither execute nor the tick writes these fields, and only a machine with no fault steps. -/
theorem stepKeepsParametersAndKey : Obligations.StepKeepsParametersAndKey := by
  intro s t h
  obtain ⟨w, i, u, hnone, -, -, hexec, rfl⟩ := step_next_cases h
  rw [State.tick_cfg, State.tick_keySlot, State.tick_fault]
  exact ⟨exec_cfg hexec, exec_keySlot hexec, (exec_fault hexec).trans hnone⟩

/-- Settles O15: memory at reset lists nothing, the stack is empty, PC is 0x200, and no fault is latched. -/
theorem resetMeetsInvariant : Obligations.ResetMeetsInvariant :=
  ⟨Memory.wf_nil, Nat.zero_le _, by decide, fun k hk => absurd hk (Nat.not_lt_zero k), nofun⟩

end Sys2Proof.Machine
end

section
/-! Which instructions write VF, memory, the framebuffer and the return stack (spec/10_state.md R22, R23, R26, R30). -/

namespace Sys2Proof.Machine

variable {s t : State} {i : Instr}

theorem flagByte_eq_zero_or_one (c : Bool) : flagByte c = 0 ∨ flagByte c = 1 := by
  cases c
  · exact .inl rfl
  · exact .inr rfl

/-- VF after a flag-setting write is the flag, unless the result lands there after it (spec/43_alu.md R150). -/
theorem State.getV_vf_writeRF {x : RegIdx} (h : s.cfg.flagLast = true ∨ (x == vf) = false) (r f : Byte) :
    (s.writeRF x r f).getV vf = f := by
  rw [State.getV_writeRF]
  by_cases hx : vf = x
  · have hlast : s.cfg.flagLast = true := h.resolve_right (by simp [hx])
    rw [if_pos ⟨hx, rfl⟩, if_pos hlast]
  · rw [if_neg fun hboth => hx hboth.1, if_neg hx, if_pos rfl]

/-- The five ALU flag writers and `DRW` leave a flag byte in VF. -/
theorem exec_flag (hw : writesFlag i = true) (hlands : s.cfg.flagLast = true ∨ resultIsVF i = false)
    (h : exec i s = .next t) : ∃ c, t.getV vf = flagByte c := by
  cases i
  case addReg | sub | shr | subn | shl =>
    cases h
    exact ⟨_, State.getV_vf_writeRF hlands _ _⟩
  case drw =>
    obtain ⟨-, rfl⟩ := State.withRange_next h
    exact ⟨_, (State.getV_setV _ vf _ vf).trans (if_pos rfl)⟩
  all_goals cases hw

/-- Settles O37: without VF in its footprint an instruction leaves it; a flag writer leaves a flag byte there. -/
theorem onlyFlagWritersTouchVF : Obligations.OnlyFlagWritersTouchVF := by
  intro i s t h
  obtain ⟨-, hregs, -⟩ := exec_covers h
  refine ⟨fun _ hvf => hregs vf hvf, fun hw hlands => ?_⟩
  obtain ⟨c, hc⟩ := exec_flag hw hlands h
  rw [hc]
  exact flagByte_eq_zero_or_one c

/-- An instruction that changes the framebuffer is `CLS` or `DRW` (R30). -/
theorem exec_fb_cases (h : exec i s = .next t) : t.fb = s.fb ∨ i = .cls ∨ ∃ x y n, i = .drw x y n := by
  obtain ⟨-, -, -, -, -, -, -, hscreen, -⟩ := exec_covers h
  cases i
  case cls => exact .inr (.inl rfl)
  case drw x y n => exact .inr (.inr ⟨x, y, n, rfl⟩)
  all_goals exact .inl (hscreen rfl).1

/-- An instruction that changes memory is `LD B,Vx` or `LD [I],Vx` (spec/20_memory.md R62). -/
theorem exec_mem_cases (h : exec i s = .next t) :
    t.mem = s.mem ∨ (∃ x, i = .ldB x) ∨ ∃ x, i = .stBlock x := by
  have hmem := exec_mem h
  cases i
  case ldB x => exact .inr (.inl ⟨x, rfl⟩)
  case stBlock x => exact .inr (.inr ⟨x, rfl⟩)
  all_goals exact .inl hmem

/-- Settles O55: the tick writes none of these fields, so what the step changed the instruction at PC changed. -/
theorem onlyNamedInstructionsWriteMemoryScreenAndStack :
    Obligations.OnlyNamedInstructionsWriteMemoryScreenAndStack := by
  intro s t i hd h
  obtain ⟨u, hexec, rfl⟩ := step_next_of_decodeAtPC hd h
  refine ⟨fun hfb => (exec_fb_cases hexec).resolve_left hfb, fun hmem => (exec_mem_cases hexec).resolve_left hmem,
    fun hmoved => ?_⟩
  rcases exec_stack_cases hexec with ⟨hsp, hstack⟩ | ⟨hret, -⟩ | ⟨nnn, hcall, -⟩
  · exact absurd hmoved (not_or.mpr ⟨not_not.mpr hsp, not_not.mpr hstack⟩)
  · exact .inl hret
  · exact .inr ⟨nnn, hcall⟩

end Sys2Proof.Machine
end

section
/-! Construction (spec/10_state.md R38): what memory holds, and the drawn fields under each policy. -/

namespace Sys2Proof.Machine

variable (font : Vector Byte 80) (free : List Byte)

/-- Storing the bytes that unlisted addresses read as anyway lists nothing. -/
theorem Memory.writeBytes_nil_of_unlisted (a : Nat) (bs : List Byte)
    (h : ∀ k, k < bs.length → bs.getD k 0 = unlistedByte (a + k)) : Memory.writeBytes [] a bs = [] := by
  induction bs generalizing a with
  | nil => rfl
  | cons b rest ih =>
    have hfirst : Memory.write [] a b = [] := if_pos (h 0 (Nat.zero_lt_succ _))
    rw [Memory.writeBytes, hfirst]
    refine ih _ fun k hk => ?_
    rw [Nat.add_assoc, Nat.add_comm 1 k]
    exact h (k + 1) (Nat.succ_lt_succ hk)

theorem constructedMemory_wf : (constructedMemory font free).wf := by
  have hfont : (0 : Nat) + font.toList.length ≤ memSize := by rw [Vector.length_toList]; decide
  have hfree : fontSize + (free.take (memSize - fontSize)).length ≤ memSize := by
    rw [List.length_take]
    exact Nat.add_le_of_le_sub' (by decide) (Nat.min_le_left ..)
  exact Memory.wf_writeBytes _ _ _ (Memory.wf_writeBytes _ _ _ Memory.wf_nil hfont) hfree

/-- The glyph table is `FONT`. -/
theorem constructedMemory_read_font (a : Nat) (h : a < 80) :
    (constructedMemory font free).read a = font.toList.getD a 0 := by
  have hin : 0 ≤ a ∧ a < 0 + font.toList.length := ⟨Nat.zero_le a, by rw [Vector.length_toList]; omega⟩
  rw [constructedMemory, Memory.read_writeBytes, if_neg fun hc => absurd hc.1 (Nat.not_le.mpr h),
    Memory.read_writeBytes, if_pos hin]
  rfl

/-- Above the glyph table memory holds the free bytes that fit, and 0 past them. -/
theorem constructedMemory_read_of_ge (a : Nat) (h : 80 ≤ a) :
    (constructedMemory font free).read a = (free.take (memSize - fontSize)).getD (a - fontSize) 0 := by
  have hfont : ¬(0 ≤ a ∧ a < 0 + font.toList.length) := by rw [Vector.length_toList]; omega
  rw [constructedMemory, Memory.read_writeBytes, Memory.read_writeBytes, if_neg hfont, Memory.read_nil]
  split
  · rfl
  · rename_i hout
    rw [unlistedByte_of_ge a h, List.getD_eq_default]
    have hpast : fontSize + (free.take (memSize - fontSize)).length ≤ a := Nat.not_lt.mp fun hlt => hout ⟨h, hlt⟩
    exact Nat.le_sub_of_add_le' hpast

/-- Above the glyph table an address that exists holds its free byte. -/
theorem constructedMemory_read_free (a : Nat) (h : 80 ≤ a) (ha : a < 4096) :
    (constructedMemory font free).read a = free.getD (a - 80) 0 := by
  have hfits : a - fontSize < memSize - fontSize := Nat.sub_lt_sub_right h ha
  rw [constructedMemory_read_of_ge font free a h, List.getD_eq_getElem?_getD, List.getElem?_take_of_lt hfits,
    ← List.getD_eq_getElem?_getD]
  rfl

/-- With no free bytes every address above the glyph table reads 0. -/
theorem constructedMemory_read_nil (a : Nat) (h : 80 ≤ a) : (constructedMemory font []).read a = 0 := by
  rw [constructedMemory_read_of_ge font [] a h, List.take_nil, List.getD_nil]

theorem constructedMemory_default : constructedMemory defaultFont [] = [] := by
  rw [constructedMemory, List.take_nil, Memory.writeBytes]
  exact Memory.writeBytes_nil_of_unlisted 0 _ fun k _ => by rw [Nat.zero_add]; rfl

/-- Under the default parameters nothing drawn is kept. -/
theorem construct_default (draw : ConstructionDraw) : State.construct defaultConfig draw = State.reset :=
  congrArg (fun m => { State.reset with mem := m }) constructedMemory_default

/-- Settles O19: every field of a construction is fixed by R38 or taken from the draw its policy picks. -/
theorem constructionValues : Obligations.ConstructionValues := by
  intro cfg draw
  refine ⟨rfl, rfl, rfl, rfl, rfl, constructedMemory_wf _ _, constructedMemory_read_font _ _, fun hzero => ?_,
    fun harb => ?_, construct_default draw⟩
  · have hpick : ResetPolicy.pick cfg.resetPolicy draw = zeroDraw := by rw [hzero]; rfl
    unfold State.construct
    rw [hpick]
    exact ⟨rfl, rfl, rfl, rfl, State.getV_of_v_zero rfl, State.stackEntry_of_stack_zero rfl, pixel_blank,
      constructedMemory_read_nil _⟩
  · have hpick : ResetPolicy.pick cfg.resetPolicy draw = draw := by rw [harb]; rfl
    unfold State.construct
    rw [hpick]
    exact ⟨rfl, rfl, rfl, rfl, rfl, rfl, rfl, constructedMemory_read_free _ _⟩

end Sys2Proof.Machine
end

section
/-! ST is written and ticked and never read (spec/10_state.md R29, R37). -/

namespace Sys2Proof.Machine

variable (s : State) (b : Byte)

theorem withoutSound_skipIf_setST (c : Bool) :
    withoutSound (.next ((s.setST b).skipIf c)) = withoutSound (.next (s.skipIf c)) := by cases c <;> rfl

theorem withoutSound_writeRF_setST (x : RegIdx) (r f : Byte) :
    withoutSound (.next ((s.setST b).writeRF x r f).advance) = withoutSound (.next (s.writeRF x r f).advance) := by
  unfold State.writeRF
  cases hlast : s.cfg.flagLast
  · rw [State.setST_cfg, hlast]; rfl
  · rw [State.setST_cfg, hlast]; rfl

/-- A check does not observe ST when neither of its branches does. -/
theorem withoutSound_ite {c : Prop} [Decidable c] {o o' p p' : Host.Outcome State Fault Refusal}
    (ho : withoutSound o' = withoutSound o) (hp : withoutSound p' = withoutSound p) :
    withoutSound (if c then o' else p') = withoutSound (if c then o else p) := by
  split
  · exact ho
  · exact hp

theorem withoutSound_withRange_setST (a k : Nat) {o o' : Host.Outcome State Fault Refusal}
    (ho : withoutSound o' = withoutSound o) :
    withoutSound ((s.setST b).withRange a k o') = withoutSound (s.withRange a k o) := by
  unfold State.withRange
  split
  · rfl
  · exact ho

theorem withoutSound_ldVxK_setST (x : RegIdx) :
    withoutSound (execLdVxK x (s.setST b)) = withoutSound (execLdVxK x s) := by
  simp only [execLdVxK, State.setST_cfg, State.setST_keySlot]
  cases s.cfg.keyWait
  · rfl
  · cases s.keySlot <;> rfl

/-- No instruction reads ST. -/
theorem withoutSound_exec_setST (i : Instr) : withoutSound (exec i (s.setST b)) = withoutSound (exec i s) := by
  cases i
  case seByte | sneByte | seReg | sneReg | skp | sknp => exact withoutSound_skipIf_setST s b _
  case addReg | sub | shr | subn | shl => exact withoutSound_writeRF_setST s b _ _ _
  case ret | call => exact withoutSound_ite rfl (withoutSound_ite rfl rfl)
  case ldF => exact withoutSound_ite rfl rfl
  case ldVxK x => exact withoutSound_ldVxK_setST s b x
  case drw | ldB | stBlock | ldBlock => exact withoutSound_withRange_setST s b _ _ rfl
  all_goals rfl

/-- A counter at 0 stays there, so ST may be taken out before the tick or after it. -/
theorem withoutSound_tickOutcome (o : Host.Outcome State Fault Refusal) :
    withoutSound (tickOutcome o) = tickOutcome (withoutSound o) := by cases o <;> rfl

theorem withoutSound_runWord_setST (w : Word) :
    withoutSound ((s.setST b).runWord w) = withoutSound (s.runWord w) := by
  simp only [State.runWord, State.setST_cfg, State.setST_pc]
  cases decodeWord s.cfg.strict59 w with
  | reject r => rfl
  | instr i =>
    show withoutSound (tickOutcome (exec i (s.setST b))) = withoutSound (tickOutcome (exec i s))
    rw [withoutSound_tickOutcome, withoutSound_exec_setST, ← withoutSound_tickOutcome]

/-- A step from a state with another ST ends the same way. -/
theorem withoutSound_step_setST : withoutSound (step (s.setST b)) = withoutSound (step s) := by
  have hfetch : (s.setST b).fetch = s.fetch := rfl
  simp only [step, State.cycle, State.setST_fault, hfetch]
  cases s.fault with
  | some f => rfl
  | none =>
    cases s.fetch with
    | error f => rfl
    | ok w => exact withoutSound_runWord_setST s b w

/-- The state a machine is in once a cycle begun in `s` has ended: the next state, or `s`, with a fault latched. -/
def State.afterCycle (s : State) : Host.Outcome State Fault Refusal → State
  | .next t => t
  | .fault f => s.latchFault f
  | .refused _ => s

theorem State.runCycle_fst : s.runCycle.1 = s.afterCycle s.cycle := by
  unfold State.runCycle
  cases s.cycle <;> rfl

theorem State.afterCycle_setST_zero (o : Host.Outcome State Fault Refusal) :
    (s.afterCycle o).setST 0 = (s.setST 0).afterCycle (withoutSound o) := by cases o <;> rfl

/-- One move of the host leaves two machines equal but for ST. -/
theorem State.hostMove_setST (m : HostMove) : ((s.setST b).hostMove m).setST 0 = (s.hostMove m).setST 0 := by
  cases m with
  | keyIn k => rfl
  | step =>
    have hcycle : withoutSound (s.setST b).cycle = withoutSound s.cycle := withoutSound_step_setST s b
    show (s.setST b).runCycle.1.setST 0 = s.runCycle.1.setST 0
    rw [State.runCycle_fst, State.runCycle_fst, State.afterCycle_setST_zero, State.afterCycle_setST_zero, hcycle]
    rfl

/-- Machines that are equal but for ST differ by a write of ST. -/
theorem State.eq_setST {t : State} (h : t.setST 0 = s.setST 0) : t = s.setST t.st := by
  show (t.setST 0).setST t.st = (s.setST 0).setST t.st
  rw [h]

/-- Any moves of the host leave two machines equal but for ST. -/
theorem State.hostRun_setST (moves : List HostMove) :
    ((s.setST b).hostRun moves).setST 0 = (s.hostRun moves).setST 0 := by
  induction moves generalizing s b with
  | nil => rfl
  | cons m rest ih =>
    rw [State.hostRun, State.hostRun, State.eq_setST (s.hostMove m) (State.hostMove_setST s b m)]
    exact ih _ _

/-- Settles O57: no instruction reads ST, so each step and, by induction, each run goes the same way without it. -/
theorem soundCounterIsUnobservable : Obligations.SoundCounterIsUnobservable :=
  fun s b => ⟨withoutSound_step_setST s b, State.hostRun_setST s b⟩

end Sys2Proof.Machine
end

section
/-! The memory as one space of bytes: its canonical form determines it (spec/20_memory.md R60), a fetch sees what a cycle
stored (R73), and a cycle whose word does not exist or does not decode faults (R65, spec/30_encoding.md R89). -/

namespace Sys2Proof.Machine

variable {s : State} {m n : Memory}

/-! ### The entries of a canonical memory -/

/-- With rising addresses no earlier entry hides a later one. -/
theorem Memory.read_of_mem (h : List.Pairwise (fun c d => c.1 < d.1) m) {e : Host.Cell} (he : e ∈ m) :
    m.read e.1 = e.2 := by
  induction m with
  | nil => cases he
  | cons d rest ih =>
    obtain ⟨hfirst, hrest⟩ := List.pairwise_cons.mp h
    rw [Memory.read_cons]
    rcases List.mem_cons.mp he with rfl | he
    · exact if_pos rfl
    · rw [if_neg (hfirst e he).ne, ih hrest he]

/-- The entries of a canonical memory are the reads that differ from the unlisted byte, so its reads determine them. -/
theorem Memory.mem_iff_read (h : m.wf) (e : Host.Cell) : e ∈ m ↔ m.read e.1 = e.2 ∧ e.2 ≠ unlistedByte e.1 := by
  obtain ⟨hrising, hcells⟩ := h
  constructor
  · exact fun he => ⟨Memory.read_of_mem hrising he, (hcells e he).2⟩
  · rintro ⟨hread, hne⟩
    by_contra hnot
    have hfree : ∀ d ∈ m, d.1 ≠ e.1 := fun d hd haddr => by
      have hbyte : d.2 = e.2 := by rw [← Memory.read_of_mem hrising hd, haddr, hread]
      exact hnot (Prod.ext haddr hbyte ▸ hd)
    exact hne (hread ▸ Memory.read_of_not_listed m e.1 hfree)

/-- Settles O59: equal reads give equal entries, and strictly rising addresses leave one order for them. -/
theorem memoryIsDeterminedByItsBytes : Obligations.MemoryIsDeterminedByItsBytes := by
  intro m n hm hn hread
  have hentries : ∀ e, e ∈ m ↔ e ∈ n := fun e => by
    rw [Memory.mem_iff_read hm, Memory.mem_iff_read hn, hread]
  exact List.Pairwise.eq_of_mem_iff (r := Prod.fst ⁻¹'o (· < ·)) hm.1 hn.1 hentries

/-! ### Fetch -/

theorem State.fetch_of_lt (h : s.pc.toNat + 1 < memSize) :
    s.fetch = .ok (wordOfBytes (s.mem.read s.pc.toNat) (s.mem.read (s.pc.toNat + 1))) := by
  rw [State.fetch_eq, if_pos h]

theorem State.fetch_of_ge (h : memSize ≤ s.pc.toNat + 1) :
    s.fetch = .error (.memoryBounds s.pc (max s.pc.toNat memSize)) := by
  rw [State.fetch_eq, if_neg (Nat.not_lt.mpr h)]

/-- Settles O60: memory after the step is memory before it with the stored bytes written from I up, and the fetch reads
its two bytes there. -/
theorem storedBytesAreFetched : Obligations.StoredBytesAreFetched := by
  intro i s t hd h p hp
  obtain ⟨u, hexec, rfl⟩ := step_next_of_decodeAtPC hd h
  have hread (a : Nat) : u.mem.read a = overlaid s.mem s.ireg.toNat (storedBytes i s) a := by
    rw [exec_mem hexec, read_writeBytes_eq_overlaid]
  show (u.tick.jump p).fetch = _
  rw [State.fetch_of_lt (s := u.tick.jump p) hp, State.jump_mem, State.jump_pc, State.tick_mem, hread, hread]

/-- A fetch that leaves memory ends the cycle in `MemoryBounds` of the lower bad address (spec/60_exceptions.md R253). -/
theorem step_fault_of_pc_ge (hf : s.fault = none) (hpc : memSize ≤ s.pc.toNat + 1) :
    step s = .fault (.memoryBounds s.pc (max s.pc.toNat memSize)) := by
  simp only [step, State.cycle, hf, State.fetch_of_ge hpc, raise]

/-- A word that does not decode ends the cycle in `DecodeError` of PC and that word (spec/60_exceptions.md R250). -/
theorem step_fault_of_reject {r : DecodeReject} (hf : s.fault = none) (hpc : s.pc.toNat + 1 < memSize)
    (hd : decodeAtPC s = (.reject r, [])) :
    step s = .fault (.decodeError s.pc (wordOfBytes (s.mem.read s.pc.toNat) (s.mem.read (s.pc.toNat + 1)))) := by
  have hreject : decodeWord s.cfg.strict59 (wordOfBytes (s.mem.read s.pc.toNat) (s.mem.read (s.pc.toNat + 1))) =
      .reject r := congrArg Prod.fst hd
  simp only [step, State.cycle, hf, State.fetch_of_lt hpc, State.runWord, hreject, raise]

/-- Settles O9: the lower bad address of the two is PC itself from 4096 on, and 4096 where PC is the last byte. -/
theorem fetchAndDecodeFaults : Obligations.FetchAndDecodeFaults := by
  intro s hf
  refine ⟨fun hpast => ?_, fun hlast => ?_, fun r hpc hd => step_fault_of_reject hf (Nat.succ_lt_succ hpc) hd⟩
  · have hmax : max s.pc.toNat memSize = s.pc.toNat := Nat.max_eq_left hpast
    rw [step_fault_of_pc_ge hf (Nat.le_succ_of_le hpast), hmax]
  · have hmax : max s.pc.toNat memSize = 4096 := by rw [hlast]; rfl
    rw [step_fault_of_pc_ge hf (by rw [hlast]; rfl), hmax]

end Sys2Proof.Machine
end

section
/-! A word from its fields, and what the decoder answers family by family (spec/30_encoding.md R81, R84). -/

namespace Sys2Proof

variable {f n : Nibble} {nn : Byte} {w : Word} {strict : Bool} {i : Instr}

theorem nibble_cases (f : Nibble) :
    f = 0x0#4 ∨ f = 0x1#4 ∨ f = 0x2#4 ∨ f = 0x3#4 ∨ f = 0x4#4 ∨ f = 0x5#4 ∨ f = 0x6#4 ∨ f = 0x7#4 ∨
    f = 0x8#4 ∨ f = 0x9#4 ∨ f = 0xA#4 ∨ f = 0xB#4 ∨ f = 0xC#4 ∨ f = 0xD#4 ∨ f = 0xE#4 ∨ f = 0xF#4 := by
  revert f; decide

/-! ### A word from its fields -/

theorem ofNat_fieldX (w : Word) : BitVec.ofNat 4 (fieldX w).val = w.extractLsb' 8 4 := by
  rw [fieldX, Fin.val_ofNat, Nat.mod_eq_of_lt (BitVec.isLt _), BitVec.ofNat_toNat, BitVec.setWidth_eq]

theorem ofNat_fieldY (w : Word) : BitVec.ofNat 4 (fieldY w).val = w.extractLsb' 4 4 := by
  rw [fieldY, Fin.val_ofNat, Nat.mod_eq_of_lt (BitVec.isLt _), BitVec.ofNat_toNat, BitVec.setWidth_eq]

theorem wordNNN_of_fields (hF : fieldF w = f) : wordNNN f (fieldNNN w) = w := by
  rw [← hF, wordNNN, fieldF, fieldNNN]
  ext k hk; interval_cases k <;> simp [BitVec.getLsbD_eq_getElem]

theorem wordXNN_of_fields (hF : fieldF w = f) (hNN : fieldNN w = nn) : wordXNN f (fieldX w) nn = w := by
  rw [← hF, ← hNN, wordXNN, ofNat_fieldX, fieldF, fieldNN]
  ext k hk; interval_cases k <;> simp [BitVec.getLsbD_eq_getElem]

theorem wordXYN_of_fields (hF : fieldF w = f) (hN : fieldN w = n) : wordXYN f (fieldX w) (fieldY w) n = w := by
  rw [← hF, ← hN, wordXYN, ofNat_fieldX, ofNat_fieldY, fieldF, fieldN]
  ext k hk; interval_cases k <;> simp [BitVec.getLsbD_eq_getElem]

/-! ### The families with a decoder of their own -/

theorem decodeWord_system (hF : fieldF w = 0x0#4) : decodeWord strict w = decodeSystem w := by rw [decodeWord, hF]; rfl

theorem decodeWord_seReg (hF : fieldF w = 0x5#4) :
    decodeWord strict w = decodeCompare strict w (.seReg (fieldX w) (fieldY w)) := by rw [decodeWord, hF]; rfl

theorem decodeWord_sneReg (hF : fieldF w = 0x9#4) :
    decodeWord strict w = decodeCompare strict w (.sneReg (fieldX w) (fieldY w)) := by rw [decodeWord, hF]; rfl

theorem decodeWord_alu (hF : fieldF w = 0x8#4) : decodeWord strict w = decodeAlu w := by rw [decodeWord, hF]; rfl

theorem decodeWord_key (hF : fieldF w = 0xE#4) : decodeWord strict w = decodeKey w := by rw [decodeWord, hF]; rfl

theorem decodeWord_misc (hF : fieldF w = 0xF#4) : decodeWord strict w = decodeMisc w := by rw [decodeWord, hF]; rfl

theorem decodeSystem_sys (hcls : w ≠ 0x00E0#16) (hret : w ≠ 0x00EE#16) :
    decodeSystem w = .instr (.sys (fieldNNN w)) := by
  rw [decodeSystem, if_neg hcls, if_neg hret]

theorem decodeCompare_instr {j : Instr} (h : decodeCompare strict w j = .instr i) :
    i = j ∧ (strict = false ∨ fieldN w = 0#4) := by
  unfold decodeCompare at h
  split at h <;> cases h
  case isFalse hpass =>
    refine ⟨rfl, ?_⟩
    simpa [imp_iff_not_or] using hpass

theorem decodeCompare_reject_iff (i : Instr) :
    (∃ r, decodeCompare strict w i = .reject r) ↔ strict = true ∧ fieldN w ≠ 0 := by
  cases strict <;> by_cases hN : fieldN w = 0#4 <;> simp [decodeCompare, hN]

/-- Settles O6: the compare families look at N only under `STRICT_5_9`. -/
theorem compareFamiliesAndStrictness : Obligations.CompareFamiliesAndStrictness := by
  intro w
  refine ⟨fun hF => ⟨decodeWord_seReg hF, fun hN => ?_⟩, fun hF => ⟨decodeWord_sneReg hF, fun hN => ?_⟩⟩
  · rw [decodeWord_seReg hF]; exact (decodeCompare_reject_iff _).mpr ⟨rfl, hN⟩
  · rw [decodeWord_sneReg hF]; exact (decodeCompare_reject_iff _).mpr ⟨rfl, hN⟩

end Sys2Proof
end

section
/-! Decoding inverts encoding (spec/30_encoding.md R83, R84, R85). -/

namespace Sys2Proof

/-- The word of a well-formed instruction decodes to it, under either value of `STRICT_5_9`. -/
theorem decodeWord_encode (strict : Bool) {i : Instr} (hwf : i.wf = true) :
    decodeWord strict (encode i) = .instr i := by
  cases i
  case sys nnn =>
    simp only [Instr.wf, Bool.and_eq_true, bne_iff_ne, ne_eq] at hwf
    obtain ⟨hcls, hret⟩ := hwf
    have hword : decodeSystem (wordNNN 0x0 nnn) = .instr (.sys nnn) := by
      rw [decodeSystem_sys (Laws.RowMatch.sys_ne nnn 0x0E0#12 hcls) (Laws.RowMatch.sys_ne nnn 0x0EE#12 hret),
        fieldNNN_wordNNN]
    exact (decodeWord_system (fieldF_wordNNN _ _)).trans hword
  case cls | ret => rfl
  case jp | call | ldI | jpV0 | seByte | sneByte | ldByte | addByte | rnd | drw => simp [encode, decodeWord]
  case seReg | sneReg => simp [encode, decodeWord, decodeCompare]
  case ldReg | orReg | andReg | xorReg | addReg | sub | shr | subn | shl => simp [encode, decodeWord, decodeAlu]
  case skp | sknp => simp [encode, decodeWord, decodeKey]
  case ldVxDt | ldVxK | ldDtVx | ldStVx | addI | ldF | ldB | stBlock | ldBlock =>
    simp [encode, decodeWord, decodeMisc]

/-- Settles O1: the first two bytes are the word of the instruction, which decodes to it. -/
theorem decodeInvertsEncode : Obligations.DecodeInvertsEncode := by
  intro strict i rest hwf
  show decodeBytes strict (highByte (encode i) :: lowByte (encode i) :: rest) = _
  rw [decodeBytes_word, decodeWord_encode strict hwf]

theorem encodesAs_encode {i : Instr} (hwf : i.wf = true) : EncodesAs (encode i) i :=
  fun strict => decodeWord_encode strict hwf

/-- Settles O7: each of the words is the encoding of its instruction. -/
theorem writtenWordsDecode : Obligations.WrittenWordsDecode :=
  ⟨encodesAs_encode (i := .sys 0x123) rfl, encodesAs_encode (i := .cls) rfl, encodesAs_encode (i := .call 0xABC) rfl,
    encodesAs_encode (i := .seByte 3 0x42) rfl, encodesAs_encode (i := .seReg 1 2) rfl,
    encodesAs_encode (i := .addByte 2 0x20) rfl, encodesAs_encode (i := .subn 0 1) rfl,
    encodesAs_encode (i := .ldI 0x2F0) rfl, encodesAs_encode (i := .rnd 3 0x0F) rfl,
    encodesAs_encode (i := .drw 1 2 5) rfl, encodesAs_encode (i := .sknp 2) rfl,
    encodesAs_encode (i := .ldBlock 2) rfl⟩

end Sys2Proof
end

section
/-! What the decoder can answer: an instruction of that word, or of that word but for an ignored N, or a rejection of a
word from the four sets of spec/30_encoding.md R87. -/

namespace Sys2Proof

variable {w : Word} {strict : Bool} {i : Instr}

/-- `w` is the one word of the instruction `i`. -/
def IsWordOf (w : Word) (i : Instr) : Prop := i.wf = true ∧ encode i = w

theorem decodeSystem_instr (hF : fieldF w = 0x0#4) (h : decodeSystem w = .instr i) : IsWordOf w i := by
  unfold decodeSystem at h
  split at h
  case isTrue hcls => cases h; exact ⟨rfl, hcls.symm⟩
  case isFalse hcls =>
    split at h <;> cases h
    case isTrue hret => exact ⟨rfl, hret.symm⟩
    case isFalse hret =>
      have hword : wordNNN 0x0 (fieldNNN w) = w := wordNNN_of_fields hF
      refine ⟨?_, hword⟩
      simp only [Instr.wf, Bool.and_eq_true, bne_iff_ne]
      exact ⟨fun hc => hcls (by rw [← hword, hc]; rfl), fun hc => hret (by rw [← hword, hc]; rfl)⟩

theorem decodeAlu_instr (hF : fieldF w = 0x8#4) (h : decodeAlu w = .instr i) : IsWordOf w i := by
  unfold decodeAlu at h
  split at h <;> cases h
  all_goals exact ⟨rfl, wordXYN_of_fields hF ‹_›⟩

theorem decodeKey_instr (hF : fieldF w = 0xE#4) (h : decodeKey w = .instr i) : IsWordOf w i := by
  unfold decodeKey at h
  split at h <;> cases h
  all_goals exact ⟨rfl, wordXNN_of_fields hF ‹_›⟩

theorem decodeMisc_instr (hF : fieldF w = 0xF#4) (h : decodeMisc w = .instr i) : IsWordOf w i := by
  unfold decodeMisc at h
  split at h <;> cases h
  all_goals exact ⟨rfl, wordXNN_of_fields hF ‹_›⟩

/-- Everything the decoder can accept: the word of the instruction itself, or, without `STRICT_5_9`, a word of a compare
family whose N is ignored (R86). Case `h_k` is arm k of the decoder, family k - 1. -/
theorem decodeWord_instr_cases (h : decodeWord strict w = .instr i) :
    IsWordOf w i ∨ strict = false ∧ (fieldF w = 0x5#4 ∧ i = .seReg (fieldX w) (fieldY w) ∨
      fieldF w = 0x9#4 ∧ i = .sneReg (fieldX w) (fieldY w)) := by
  unfold decodeWord at h
  split at h
  case h_1 hF => exact .inl (decodeSystem_instr hF h)
  case h_2 hF | h_3 hF | h_11 hF | h_12 hF => cases h; exact .inl ⟨rfl, wordNNN_of_fields hF⟩
  case h_4 hF | h_5 hF | h_7 hF | h_8 hF | h_13 hF => cases h; exact .inl ⟨rfl, wordXNN_of_fields hF rfl⟩
  case h_14 hF => cases h; exact .inl ⟨rfl, wordXYN_of_fields hF rfl⟩
  case h_6 hF =>
    obtain ⟨rfl, hstrict | hN⟩ := decodeCompare_instr h
    · exact .inr ⟨hstrict, .inl ⟨hF, rfl⟩⟩
    · exact .inl ⟨rfl, wordXYN_of_fields hF hN⟩
  case h_10 hF =>
    obtain ⟨rfl, hstrict | hN⟩ := decodeCompare_instr h
    · exact .inr ⟨hstrict, .inr ⟨hF, rfl⟩⟩
    · exact .inl ⟨rfl, wordXYN_of_fields hF hN⟩
  case h_9 hF => exact .inl (decodeAlu_instr hF h)
  case h_15 hF => exact .inl (decodeKey_instr hF h)
  case h_16 =>
    have hF : fieldF w = 0xF#4 := by have := nibble_cases (fieldF w); tauto
    exact .inl (decodeMisc_instr hF h)

/-- Settles O2: an ignored N needs `STRICT_5_9` = false. -/
theorem encodeInvertsStrictDecode : Obligations.EncodeInvertsStrictDecode := by
  intro w i h
  rcases decodeWord_instr_cases h with hword | ⟨hstrict, -⟩
  · exact hword
  · cases hstrict

/-! ### Rejection -/

theorem decodeSystem_ne_reject (r : DecodeReject) : decodeSystem w ≠ .reject r := by
  unfold decodeSystem
  split
  · nofun
  · split <;> nofun

theorem decodeAlu_reject_iff :
    (∃ r, decodeAlu w = .reject r) ↔ fieldN w ∈ ([0x8, 0x9, 0xA, 0xB, 0xC, 0xD, 0xF] : List Nibble) := by
  rcases nibble_cases (fieldN w) with
    hN | hN | hN | hN | hN | hN | hN | hN | hN | hN | hN | hN | hN | hN | hN | hN <;> simp [decodeAlu, hN]

/-- The two bytes that are not rejected are the ones the decoder names. -/
theorem decodeKey_reject_iff :
    (∃ r, decodeKey w = .reject r) ↔ fieldNN w ∉ ([0x9E, 0xA1] : List Byte) := by
  unfold decodeKey
  split <;> simp_all

/-- The nine bytes that are not rejected are the ones the decoder names. -/
theorem decodeMisc_reject_iff :
    (∃ r, decodeMisc w = .reject r) ↔
      fieldNN w ∉ ([0x07, 0x0A, 0x15, 0x18, 0x1E, 0x29, 0x33, 0x55, 0x65] : List Byte) := by
  unfold decodeMisc
  split <;> simp_all

/-- Settles O3: only the families 5, 8, 9, E and F reject, each by its own rule. Case `h_k` is arm k of the decoder,
family k - 1. -/
theorem illegalWordsAreExactlyTheListedSets : Obligations.IllegalWordsAreExactlyTheListedSets := by
  intro strict w
  unfold decodeWord
  split
  case h_1 hF => simp [hF, decodeSystem_ne_reject]
  case h_6 hF | h_10 hF => rw [decodeCompare_reject_iff]; simp [hF]
  case h_9 hF => rw [decodeAlu_reject_iff]; simp [hF]
  case h_15 hF => rw [decodeKey_reject_iff]; simp [hF]
  case h_16 =>
    have hF : fieldF w = 0xF#4 := by have := nibble_cases (fieldF w); tauto
    rw [decodeMisc_reject_iff]; simp [hF]
  case h_2 hF | h_3 hF | h_4 hF | h_5 hF | h_7 hF | h_8 hF | h_11 hF | h_12 hF | h_13 hF | h_14 hF => simp [hF]

end Sys2Proof
end

section
/-! The decoder is the opcode map of spec/30_encoding.md R83, row by row. -/

namespace Sys2Proof

variable {w : Word} {strict : Bool} {i : Instr} {r : OpcodeRow}

/-- The row of the opcode map with number `k` (R83). -/
abbrev opcodeRow (k : Nat) : OpcodeRow := opcodeRows.getD k ⟨0, 0, []⟩

theorem fieldF_and (w m : Word) : fieldF (w &&& m) = fieldF w &&& fieldF m := BitVec.extractLsb'_and

theorem fieldN_and (w m : Word) : fieldN (w &&& m) = fieldN w &&& fieldN m := BitVec.extractLsb'_and

theorem fieldNN_and (w m : Word) : fieldNN (w &&& m) = fieldNN w &&& fieldNN m := BitVec.extractLsb'_and

/-! ### The fields a row fixes -/

theorem OpcodeRow.and_mask_of_covers (h : r.covers w = true) : w &&& r.mask = r.value := by
  rw [OpcodeRow.covers, Bool.and_eq_true, beq_iff_eq] at h
  exact h.1

theorem OpcodeRow.not_mem_exclude_of_covers (h : r.covers w = true) : w ∉ r.exclude := by
  rw [OpcodeRow.covers, Bool.and_eq_true] at h
  simpa using h.2

theorem OpcodeRow.fieldF_of_covers (h : r.covers w = true) (hm : fieldF r.mask = 0xF#4) :
    fieldF w = fieldF r.value := by
  rw [← OpcodeRow.and_mask_of_covers h, fieldF_and, hm]
  exact BitVec.and_allOnes.symm

theorem OpcodeRow.fieldN_of_covers (h : r.covers w = true) (hm : fieldN r.mask = 0xF#4) :
    fieldN w = fieldN r.value := by
  rw [← OpcodeRow.and_mask_of_covers h, fieldN_and, hm]
  exact BitVec.and_allOnes.symm

theorem OpcodeRow.fieldNN_of_covers (h : r.covers w = true) (hm : fieldNN r.mask = 0xFF#8) :
    fieldNN w = fieldNN r.value := by
  rw [← OpcodeRow.and_mask_of_covers h, fieldNN_and, hm]
  exact BitVec.and_allOnes.symm

theorem OpcodeRow.eq_of_covers (h : r.covers w = true) (hm : r.mask = 0xFFFF#16) : w = r.value := by
  rw [← OpcodeRow.and_mask_of_covers h, hm]
  exact BitVec.and_allOnes.symm

theorem fieldF_mask_opcodeRow {k : Nat} (hk : k < 35) : fieldF (opcodeRow k).mask = 0xF#4 := by
  revert k; decide

/-! ### From the row to the decoder and back -/

/-- A word of row `k` has the fields by which the decoder picks the instruction of row `k`. The rows are taken by what
they fix: the whole word, the family and N or NN, or the family alone. -/
theorem decodeWord_of_covers {k : Nat} (hk : k < 35) (h : (opcodeRow k).covers w = true) :
    ∃ i, decodeWord false w = .instr i ∧ i.row = k := by
  have hF := OpcodeRow.fieldF_of_covers h (fieldF_mask_opcodeRow hk)
  have hshape : k = 0 ∨ (1 ≤ k ∧ k ≤ 2) ∨ k = 7 ∨ k = 19 ∨ (10 ≤ k ∧ k ≤ 18) ∨ (24 ≤ k ∧ k ≤ 25) ∨ (26 ≤ k ∧ k ≤ 34) ∨
      (3 ≤ k ∧ k ≤ 6) ∨ (8 ≤ k ∧ k ≤ 9) ∨ (20 ≤ k ∧ k ≤ 23) := by omega
  rcases hshape with rfl | ⟨hlo, hhi⟩ | rfl | rfl | ⟨hlo, hhi⟩ | ⟨hlo, hhi⟩ | ⟨hlo, hhi⟩ | hrange | hrange | hrange
  · have hout := OpcodeRow.not_mem_exclude_of_covers h
    have hcls : w ≠ 0x00E0#16 := List.ne_of_not_mem_cons hout
    have hret : w ≠ 0x00EE#16 := List.ne_of_not_mem_cons (List.not_mem_of_not_mem_cons hout)
    exact ⟨_, (decodeWord_system hF).trans (decodeSystem_sys hcls hret), rfl⟩
  · interval_cases k <;> (rw [OpcodeRow.eq_of_covers h rfl]; exact ⟨_, rfl, rfl⟩)
  · exact ⟨_, decodeWord_seReg hF, rfl⟩
  · exact ⟨_, decodeWord_sneReg hF, rfl⟩
  · interval_cases k <;> (rw [decodeWord_alu hF, decodeAlu, OpcodeRow.fieldN_of_covers h rfl]; exact ⟨_, rfl, rfl⟩)
  · interval_cases k <;> (rw [decodeWord_key hF, decodeKey, OpcodeRow.fieldNN_of_covers h rfl]; exact ⟨_, rfl, rfl⟩)
  · interval_cases k <;> (rw [decodeWord_misc hF, decodeMisc, OpcodeRow.fieldNN_of_covers h rfl]; exact ⟨_, rfl, rfl⟩)
  all_goals
    obtain ⟨hlo, hhi⟩ := hrange
    interval_cases k <;> (rw [decodeWord, hF]; exact ⟨_, rfl, rfl⟩)

/-- The word of a well-formed instruction is covered by the instruction's own row. -/
theorem covers_encode : ∀ i : Instr, i.wf = true → (opcodeRow i.row).covers (encode i) = true
  | .sys nnn => Laws.RowMatch.sys nnn
  | .cls => Laws.RowMatch.cls
  | .ret => Laws.RowMatch.ret
  | .jp nnn => Laws.RowMatch.jp nnn
  | .call nnn => Laws.RowMatch.call nnn
  | .seByte x nn => Laws.RowMatch.seByte x nn
  | .sneByte x nn => Laws.RowMatch.sneByte x nn
  | .seReg x y => Laws.RowMatch.seReg x y
  | .ldByte x nn => Laws.RowMatch.ldByte x nn
  | .addByte x nn => Laws.RowMatch.addByte x nn
  | .ldReg x y => Laws.RowMatch.ldReg x y
  | .orReg x y => Laws.RowMatch.orReg x y
  | .andReg x y => Laws.RowMatch.andReg x y
  | .xorReg x y => Laws.RowMatch.xorReg x y
  | .addReg x y => Laws.RowMatch.addReg x y
  | .sub x y => Laws.RowMatch.sub x y
  | .shr x y => Laws.RowMatch.shr x y
  | .subn x y => Laws.RowMatch.subn x y
  | .shl x y => Laws.RowMatch.shl x y
  | .sneReg x y => Laws.RowMatch.sneReg x y
  | .ldI nnn => Laws.RowMatch.ldI nnn
  | .jpV0 nnn => Laws.RowMatch.jpV0 nnn
  | .rnd x nn => Laws.RowMatch.rnd x nn
  | .drw x y n => Laws.RowMatch.drw x y n
  | .skp x => Laws.RowMatch.skp x
  | .sknp x => Laws.RowMatch.sknp x
  | .ldVxDt x => Laws.RowMatch.ldVxDt x
  | .ldVxK x => Laws.RowMatch.ldVxK x
  | .ldDtVx x => Laws.RowMatch.ldDtVx x
  | .ldStVx x => Laws.RowMatch.ldStVx x
  | .addI x => Laws.RowMatch.addI x
  | .ldF x => Laws.RowMatch.ldF x
  | .ldB x => Laws.RowMatch.ldB x
  | .stBlock x => Laws.RowMatch.stBlock x
  | .ldBlock x => Laws.RowMatch.ldBlock x

/-- A row that looks at the family alone covers every word of its family. -/
theorem OpcodeRow.covers_of_fieldF (hmask : r.mask = 0xF000#16) (hexclude : r.exclude = [])
    (hvalue : r.value = (fieldF w).setWidth 16 <<< 12) : r.covers w = true := by
  have hfamily : w &&& r.mask = r.value := by
    rw [hmask, hvalue, ← Laws.RowMatch.and_wordNNN _ (fieldNNN w), wordNNN_of_fields rfl]
  rw [OpcodeRow.covers, hfamily, hexclude, beq_self_eq_true]
  rfl

theorem covers_of_decodeWord (h : decodeWord strict w = .instr i) : (opcodeRow i.row).covers w = true := by
  rcases decodeWord_instr_cases h with ⟨hwf, rfl⟩ | ⟨-, ⟨hF, rfl⟩ | ⟨hF, rfl⟩⟩
  · exact covers_encode i hwf
  · exact OpcodeRow.covers_of_fieldF rfl rfl (by rw [hF]; rfl)
  · exact OpcodeRow.covers_of_fieldF rfl rfl (by rw [hF]; rfl)

/-- Settles O4: a covered word decodes by the fields its row fixes, and a decoded word is covered as its encoding is. -/
theorem decoderFollowsTheOpcodeMap : Obligations.DecoderFollowsTheOpcodeMap := by
  intro w k hk
  constructor
  · exact decodeWord_of_covers hk
  · rintro ⟨i, h, rfl⟩
    exact covers_of_decodeWord h

end Sys2Proof
end

section
/-! Where PC goes by class (spec/30_encoding.md R91), and the step as execute with the tick after it (R90). -/

namespace Sys2Proof.Machine

variable {s t : State} {i : Instr}

/-- Settles O5: family 0x0 is `decodeSystem`, and `SYS` only advances PC. -/
theorem familyZeroDecodesWithoutError : Obligations.FamilyZeroDecodesWithoutError := by
  intro strict w hF
  refine ⟨fun hcls => hcls ▸ rfl, fun hret => hret ▸ rfl, fun hcls hret => ⟨?_, fun s => ?_⟩⟩
  · exact (decodeWord_system hF).trans (decodeSystem_sys hcls hret)
  · exact ⟨s.advance, rfl, rfl, exec_covers (i := .sys (fieldNNN w)) rfl⟩

/-! ### Where PC goes -/

theorem State.skipIf_pc_cases (s : State) (c : Bool) : (s.skipIf c).pc = s.pc + 2 ∨ (s.skipIf c).pc = s.pc + 4 := by
  cases c
  · exact .inl rfl
  · exact .inr rfl

theorem exec_pc_of_next (hc : pcClass i = .next) (h : exec i s = .next t) : t.pc = s.pc + 2 := by
  cases i
  case jp | jpV0 | call | ret | seByte | sneByte | seReg | sneReg | skp | sknp | ldVxK => cases hc
  case addReg | sub | shr | subn | shl => cases h; rw [State.advance_pc, State.writeRF_pc]
  case ldF => cases execLdF_next h; rfl
  case drw | ldB | stBlock | ldBlock => obtain ⟨-, rfl⟩ := State.withRange_next h; rfl
  all_goals cases h; rfl

theorem exec_pc_of_skip (hc : pcClass i = .skip) (h : exec i s = .next t) : t.pc = s.pc + 2 ∨ t.pc = s.pc + 4 := by
  cases i
  case seByte | sneByte | seReg | sneReg | skp | sknp => cases h; exact State.skipIf_pc_cases s _
  all_goals cases hc

/-- `LD Vx,K` stays only under `BLOCK` with no key held (spec/46_key.md R223). -/
theorem execLdVxK_pc {x : RegIdx} (h : execLdVxK x s = .next t) :
    t.pc = s.pc + 2 ∨ (t.pc = s.pc ∧ s.cfg.keyWait = .block ∧ s.keySlot = none) := by
  unfold execLdVxK at h
  split at h
  case h_1 => cases h; exact .inl rfl
  case h_2 hblock =>
    split at h <;> cases h
    case h_1 hnone => exact .inr ⟨rfl, hblock, hnone⟩
    case h_2 => exact .inl rfl

/-- Settles O56: by class; the one instruction that may wait is `LD Vx,K`. -/
theorem pcMovesByClass : Obligations.PcMovesByClass := by
  refine fun i s t h => ⟨fun hc => exec_pc_of_next hc h, fun hc => exec_pc_of_skip hc h, fun hc => ?_⟩
  cases i
  case ldVxK => exact execLdVxK_pc h
  all_goals cases hc

/-! ### From the instruction at PC to the step -/

/-- The cycle of a machine with no fault that can fetch an instruction (R90). -/
theorem step_of_decodeAtPC (hf : s.fault = none) (hpc : s.pc.toNat + 1 < memSize)
    (hd : decodeAtPC s = (.instr i, [])) : step s = tickOutcome (exec i s) := by
  have hword : decodeWord s.cfg.strict59 (wordOfBytes (s.mem.read s.pc.toNat) (s.mem.read (s.pc.toNat + 1))) =
      .instr i := congrArg Prod.fst hd
  simp only [step, State.cycle, hf, State.fetch_of_lt hpc, State.runWord, hword]

/-- Settles O8: the tick ends a cycle that completes and no other. -/
theorem stepRunsTheDecodedInstruction : Obligations.StepRunsTheDecodedInstruction := by
  intro s i hf hpc hd
  rw [step_of_decodeAtPC hf hpc hd]
  cases exec i s <;> rfl

theorem step_next_of_exec (hf : s.fault = none) (hpc : s.pc.toNat + 1 < memSize)
    (hd : decodeAtPC s = (.instr i, [])) (h : exec i s = .next t) : step s = .next t.tick := by
  rw [step_of_decodeAtPC hf hpc hd, h, tickOutcome]

/-- Settles O48: execute writes the whole Vx and the tick takes one from it. -/
theorem writtenCounterTicksInItsOwnCycle : Obligations.WrittenCounterTicksInItsOwnCycle :=
  fun s x hf hpc =>
    ⟨fun hd => ⟨(s.setDT (s.getV x)).advance.tick, step_next_of_exec hf hpc hd rfl, tickCounter_toNat _⟩,
     fun hd => ⟨(s.setST (s.getV x)).advance.tick, step_next_of_exec hf hpc hd rfl, tickCounter_toNat _⟩⟩

end Sys2Proof.Machine
end

section
/-! Control flow (spec/40_control_flow.md): what each of its six instructions does to PC, the screen and the return stack,
and a `RET` that meets the stack a `CALL` left. -/

namespace Sys2Proof.Machine

variable {s : State}

/-! ### Jump targets -/

theorem zextAddr_toNat (nnn : Addr12) : (zextAddr nnn).toNat = nnn.toNat :=
  BitVec.toNat_setWidth_of_le (by decide)

/-- The sum of R115 stays below 2^16, so nothing wraps and nothing is masked. -/
theorem zextAddr_add_zextByte_toNat (nnn : Addr12) (b : Byte) :
    (zextAddr nnn + zextByte b).toNat = nnn.toNat + b.toNat := by
  have haddr := zextAddr_toNat_le nnn
  have hbyte := zextByte_toNat_le b
  have hb : (zextByte b).toNat = b.toNat := BitVec.toNat_setWidth_of_le (by decide)
  rw [BitVec.toNat_add_of_lt (by omega), zextAddr_toNat, hb]

/-- Settles O21: `SYS` only advances PC. -/
theorem sysHasNoEffect : Obligations.SysHasNoEffect := fun nnn =>
  ⟨fun hcls hret =>
      encodesAs_encode (i := .sys nnn) (Bool.and_eq_true_iff.mpr ⟨bne_iff_ne.mpr hcls, bne_iff_ne.mpr hret⟩),
    fun s => ⟨s.advance, rfl, rfl, exec_covers (i := .sys nnn) rfl⟩⟩

/-- Settles O22: the framebuffer becomes the blank one, which is also the one presented. -/
theorem clsClearsTheScreen : Obligations.ClsClearsTheScreen :=
  ⟨encodesAs_encode (i := .cls) rfl, fun s =>
    ⟨((s.setFb fbClear).emit [.displayClear, .present fbClear]).advance, rfl, rfl, pixel_blank, rfl,
      exec_covers (i := .cls) rfl⟩⟩

/-- Settles O24: the target is the address, zero-extended. -/
theorem jpSetsPC : Obligations.JpSetsPC := fun nnn =>
  ⟨encodesAs_encode (i := .jp nnn) rfl, fun s =>
    ⟨s.jump (zextAddr nnn), rfl, zextAddr_toNat nnn, exec_covers (i := .jp nnn) rfl⟩⟩

/-- Settles O26: the target is the 16-bit sum, which does not wrap. -/
theorem jpV0AddsRegisterZero : Obligations.JpV0AddsRegisterZero := fun nnn =>
  ⟨encodesAs_encode (i := .jpV0 nnn) rfl, fun s =>
    ⟨s.jump (zextAddr nnn + zextByte (s.getV 0)), rfl, zextAddr_add_zextByte_toNat nnn (s.getV 0),
      exec_covers (i := .jpV0 nnn) rfl⟩⟩

/-! ### The return stack -/

theorem exec_ret_of_sp_zero (h : s.sp.toNat = 0) : exec .ret s = .fault (.stackUnderflow s.pc) :=
  if_pos (BitVec.eq_of_toNat_eq h)

/-- `RET` within the range of spec/10_state.md R26 (R112). -/
theorem exec_ret_of_sp_pos (hpos : 0 < s.sp.toNat) (hle : s.sp.toNat ≤ s.cfg.stackDepth.toNat) :
    exec .ret s = .next (s.pop.jump (s.topOfStack + 2)) := by
  have hne : s.sp ≠ 0 := fun h0 => by simp [h0] at hpos
  exact (if_neg hne).trans (if_pos hle)

theorem exec_call_of_sp_eq {nnn : Addr12} (h : s.sp.toNat = s.cfg.stackDepth.toNat) :
    exec (.call nnn) s = .fault (.stackOverflow s.pc) :=
  if_pos h

/-- `CALL` with room on the stack (R114). -/
theorem exec_call_of_sp_lt {nnn : Addr12} (h : s.sp.toNat < s.cfg.stackDepth.toNat) :
    exec (.call nnn) s = .next ((s.push s.pc).jump (zextAddr nnn)) :=
  (if_neg h.ne).trans (if_pos h)

/-- Below `STACK_DEPTH` the stack has an entry to write. -/
theorem sp_lt_sixteen (h : s.sp.toNat < s.cfg.stackDepth.toNat) : s.sp.toNat < 16 :=
  h.trans_le (StackDepth.toNat_le _)

/-- Settles O23: `RET` pops the entry below SP, by the case of SP, and the entry stays in the array. -/
theorem retPopsAndResumesAfterTheCall : Obligations.RetPopsAndResumesAfterTheCall := by
  refine ⟨encodesAs_encode (i := .ret) rfl, fun s => ⟨exec_ret_of_sp_zero, fun hpos hle => ?_⟩⟩
  have hexec := exec_ret_of_sp_pos hpos hle
  exact ⟨_, hexec, State.pop_sp_toNat s hpos, BitVec.toNat_add _ _, rfl, exec_covers hexec⟩

/-- Settles O25: `CALL` pushes its own address, by the case of SP. -/
theorem callPushesItsOwnAddress : Obligations.CallPushesItsOwnAddress := by
  refine fun nnn => ⟨encodesAs_encode (i := .call nnn) rfl, fun s => ⟨exec_call_of_sp_eq, fun hlt => ?_⟩⟩
  have hexec := exec_call_of_sp_lt (nnn := nnn) hlt
  have hroom := sp_lt_sixteen hlt
  exact ⟨_, hexec, zextAddr_toNat nnn, State.push_sp_toNat s s.pc hroom,
    fun k => State.stackEntry_push s s.pc k hroom, exec_covers hexec⟩

/-- Settles O27: the stack at the `RET` is the one the `CALL` pushed its address on, so the top entry is that address
and popping it restores the depth. -/
theorem returnResumesAfterTheCall : Obligations.ReturnResumesAfterTheCall := by
  intro nnn s t u hlt hcall hcfg hsp hstack
  obtain ⟨-, rfl⟩ := execCall_next hcall
  have hroom := sp_lt_sixteen hlt
  have hspNat : u.sp.toNat = s.sp.toNat + 1 := (congrArg BitVec.toNat hsp).trans (State.push_sp_toNat s s.pc hroom)
  have hentry : ∀ k, u.stackEntry k = (s.push s.pc).stackEntry k := State.stackEntry_of_stack_eq hstack
  have hle : u.sp.toNat ≤ u.cfg.stackDepth.toNat := by rw [hspNat, hcfg]; exact hlt
  have htop : u.topOfStack = s.pc := calc
    u.topOfStack = (s.push s.pc).stackEntry (u.sp.toNat - 1) := hentry _
    _ = s.pc := by rw [hspNat, Nat.add_sub_cancel, State.stackEntry_push s s.pc _ hroom, if_pos rfl]
  refine ⟨_, exec_ret_of_sp_pos (by omega) hle, ?_, ?_, fun k hk => ?_⟩
  · rw [State.jump_pc, htop]
  · rw [State.jump_sp, State.pop_sp, hsp]
    exact BitVec.add_sub_cancel _ _
  · rw [State.stackEntry_jump, State.stackEntry_pop, hentry, State.stackEntry_push s s.pc k hroom, if_neg hk.ne]

end Sys2Proof.Machine
end

section
/-! The conditional skips on registers (spec/41_conditional_skip.md): each takes the skip exactly on its comparison and
writes nothing but PC; the register comparisons decode at every N, unless `STRICT_5_9`. -/

namespace Sys2Proof.Machine

variable {s : State} {i : Instr}

/-- An instruction that is a skip on the condition `p` completes, moves PC by `p`, and changes nothing else. -/
theorem exec_of_skipIf {c : Bool} {p : Prop} [Decidable p] (hexec : exec i s = .next (s.skipIf c))
    (hc : c = true ↔ p) :
    ∃ t, exec i s = .next t ∧ t.pc = (if p then s.pc + 4 else s.pc + 2) ∧ ({} : Footprint).covers s t :=
  ⟨s.skipIf c, hexec, (State.skipIf_pc s c).trans (if_congr hc rfl rfl), (Footprint.covers_refl {} s).skipIf c⟩

/-- Settles O28: the words are the encodings, and execute is a skip on the comparison of Vx with NN. -/
theorem immediateSkips : Obligations.ImmediateSkips := fun x nn =>
  ⟨encodesAs_encode (i := .seByte x nn) rfl, encodesAs_encode (i := .sneByte x nn) rfl, fun _ =>
    ⟨exec_of_skipIf rfl beq_iff_eq, exec_of_skipIf rfl bne_iff_ne⟩⟩

/-! ### The ignored N (spec/30_encoding.md R86) -/

theorem decodeWord_seReg_wordXYN (x y : RegIdx) (n : Nibble) :
    decodeWord false (wordXYN 0x5 x y n) = .instr (.seReg x y) ∧
      (n ≠ 0 → ∃ r, decodeWord true (wordXYN 0x5 x y n) = .reject r) := by
  obtain ⟨hse, -⟩ := compareFamiliesAndStrictness (wordXYN 0x5 x y n)
  rw [fieldX_wordXYN, fieldY_wordXYN, fieldN_wordXYN] at hse
  exact hse (fieldF_wordXYN ..)

theorem decodeWord_sneReg_wordXYN (x y : RegIdx) (n : Nibble) :
    decodeWord false (wordXYN 0x9 x y n) = .instr (.sneReg x y) ∧
      (n ≠ 0 → ∃ r, decodeWord true (wordXYN 0x9 x y n) = .reject r) := by
  obtain ⟨-, hsne⟩ := compareFamiliesAndStrictness (wordXYN 0x9 x y n)
  rw [fieldX_wordXYN, fieldY_wordXYN, fieldN_wordXYN] at hsne
  exact hsne (fieldF_wordXYN ..)

/-- Settles O29: N = 0 is the encoding, any other N is ignored or rejected by `STRICT_5_9`, and execute is a skip on the
comparison of Vx with Vy. -/
theorem registerSkips : Obligations.RegisterSkips := by
  refine fun x y => ⟨fun n => ?_, encodesAs_encode (i := .seReg x y) rfl, encodesAs_encode (i := .sneReg x y) rfl,
    fun _ => ⟨exec_of_skipIf rfl beq_iff_eq, exec_of_skipIf rfl bne_iff_ne⟩⟩
  obtain ⟨hse, hseStrict⟩ := decodeWord_seReg_wordXYN x y n
  obtain ⟨hsne, hsneStrict⟩ := decodeWord_sneReg_wordXYN x y n
  exact ⟨hse, hsne, fun hn => ⟨hseStrict hn, hsneStrict hn⟩⟩

end Sys2Proof.Machine
end

section
/-! The register and immediate instructions (spec/42_register_immediate.md): each writes Vx alone and advances PC. -/

namespace Sys2Proof.Machine

/-- A register just written holds the value written, VF like any other. -/
theorem State.getV_setV_same (s : State) (r : RegIdx) (b : Byte) : (s.setV r b).getV r = b :=
  (State.getV_setV s r b r).trans (if_pos rfl)

/-- Settles O30: both write one byte to Vx and advance; the 8-bit sum is the sum mod 256, and the footprint holds Vx
alone. -/
theorem immediateWrites : Obligations.ImmediateWrites := by
  refine fun x nn => ⟨encodesAs_encode (i := .ldByte x nn) rfl, encodesAs_encode (i := .addByte x nn) rfl,
    fun s => ⟨?_, ?_⟩⟩
  · exact ⟨(s.setV x nn).advance, rfl, State.getV_setV_same s x nn, rfl, exec_covers (i := .ldByte x nn) rfl⟩
  · have hsum : ((s.setV x (s.getV x + nn)).getV x).toNat = ((s.getV x).toNat + nn.toNat) % 256 := by
      rw [State.getV_setV_same, BitVec.toNat_add]
    exact ⟨(s.setV x (s.getV x + nn)).advance, rfl, hsum, rfl, exec_covers (i := .addByte x nn) rfl⟩

end Sys2Proof.Machine
end

section
/-! The register-register ALU (spec/43_alu.md): the copy and bitwise operations write Vx alone; the other five write a
result and a flag, both computed from the operands before any write. -/

namespace Sys2Proof.Machine

variable {s : State} {i : Instr} {x : RegIdx} {r f : Byte}

/-! ### The two writes of R150 -/

/-- An instruction that is a `WriteR` with the outcome `Next`. -/
theorem exec_of_writeR (hexec : exec i s = .next (s.writeR x r).advance) :
    ∃ t, exec i s = .next t ∧ t.getV x = r ∧ t.pc = s.pc + 2 ∧ ({ regs := [x] } : Footprint).covers s t :=
  ⟨_, hexec, State.getV_setV_same s x r, rfl, ((Footprint.covers_refl _ s).setV (List.mem_singleton_self x) r).advance⟩

/-- The same with the byte written given bit by bit. -/
theorem exec_of_writeR_bits {bit : Nat → Bool} (hexec : exec i s = .next (s.writeR x r).advance)
    (hbit : ∀ b, r.getLsbD b = bit b) :
    ∃ t, exec i s = .next t ∧ (∀ b, (t.getV x).getLsbD b = bit b) ∧ t.pc = s.pc + 2 ∧
      ({ regs := [x] } : Footprint).covers s t := by
  obtain ⟨t, ht, rfl, hrest⟩ := exec_of_writeR hexec
  exact ⟨t, ht, hbit, hrest⟩

/-- With X = F the two writes meet in VF; otherwise Vx ends holding the result and VF the flag. -/
theorem State.flagWrite_writeRF (s : State) (x : RegIdx) (r f : Byte) :
    FlagWrite s (s.writeRF x r f).advance x r.toNat f.toNat := by
  refine ⟨by rw [State.advance_pc, State.writeRF_pc], fun hx => ⟨?_, ?_⟩, fun hx => ?_,
    ((Footprint.covers_refl _ s).writeRF (by simp) (by simp) r f).advance⟩
  · rw [State.getV_advance, State.getV_writeRF, if_neg fun hboth => hx hboth.2, if_pos rfl]
  · rw [State.getV_advance, State.getV_vf_writeRF (.inr (beq_false_of_ne hx))]
  · rw [State.getV_advance, State.getV_writeRF, if_pos ⟨hx.symm, rfl⟩, apply_ite BitVec.toNat]

/-- An instruction that is a `WriteRF` with the outcome `Next`, its result and flag given as numbers. -/
theorem exec_of_writeRF {result flag : Nat} (hexec : exec i s = .next (s.writeRF x r f).advance)
    (hresult : r.toNat = result) (hflag : f.toNat = flag) :
    ∃ t, exec i s = .next t ∧ FlagWrite s t x result flag :=
  ⟨_, hexec, hresult ▸ hflag ▸ s.flagWrite_writeRF x r f⟩

/-! ### Flags and shifted values as numbers -/

theorem flagByte_toNat (c : Bool) : (flagByte c).toNat = c.toNat := by
  cases c <;> rfl

theorem flagByte_decide_toNat (p : Prop) [Decidable p] : (flagByte (decide p)).toNat = if p then 1 else 0 :=
  (apply_ite BitVec.toNat _ _ _).trans (if_congr decide_eq_true_iff rfl rfl)

theorem carryFlag_toNat (a b : Byte) : (carryFlag a b).toNat = if a.toNat + b.toNat > 255 then 1 else 0 :=
  flagByte_decide_toNat _

theorem noBorrowFlag_toNat (a b : Byte) : (noBorrowFlag a b).toNat = if a.toNat ≥ b.toNat then 1 else 0 :=
  flagByte_decide_toNat _

theorem lowBitFlag_toNat (src : Byte) : (lowBitFlag src).toNat = src.toNat % 2 := by
  rw [lowBitFlag, flagByte_toNat, BitVec.getLsbD, Nat.toNat_testBit, pow_zero, Nat.div_one]

/-- Bit 7 of a byte is its quotient by 128, which is at most 1. -/
theorem highBitFlag_toNat (src : Byte) : (highBitFlag src).toNat = src.toNat / 128 := by
  have hbit : (highBitFlag src).toNat = src.toNat / 2 ^ 7 % 2 := by
    rw [highBitFlag, flagByte_toNat, BitVec.getLsbD, Nat.toNat_testBit]
  have hsrc := src.isLt
  omega

/-- A byte difference is the difference mod 256. -/
theorem byte_sub_toNat (a b : Byte) : (a - b).toNat = (a.toNat + 256 - b.toNat) % 256 := by
  have ha := a.isLt
  have hb := b.isLt
  rw [BitVec.toNat_sub]
  omega

theorem byte_shiftRight_one_toNat (src : Byte) : (src >>> 1).toNat = src.toNat / 2 := by
  rw [BitVec.toNat_ushiftRight, Nat.shiftRight_one]

theorem byte_shiftLeft_one_toNat (src : Byte) : (src <<< 1).toNat = src.toNat * 2 % 256 := by
  rw [BitVec.toNat_shiftLeft, Nat.shiftLeft_eq, pow_one]

/-- The source of a shift is the register `SHIFT_SOURCE` names. -/
theorem State.shiftSource_toNat (s : State) (x y : RegIdx) : (s.shiftSource x y).toNat = shifted s x y := by
  unfold State.shiftSource shifted
  cases s.cfg.shiftSource <;> rfl

/-! ### The obligations -/

/-- Settles O31: each is a `WriteR` of the copy, or of the bitwise operation on the operands. -/
theorem copyAndBitwise : Obligations.CopyAndBitwise := fun x y =>
  ⟨encodesAs_encode (i := .ldReg x y) rfl, encodesAs_encode (i := .orReg x y) rfl,
    encodesAs_encode (i := .andReg x y) rfl, encodesAs_encode (i := .xorReg x y) rfl, fun _ =>
    ⟨exec_of_writeR rfl, exec_of_writeR_bits rfl fun _ => BitVec.getLsbD_or,
      exec_of_writeR_bits rfl fun _ => BitVec.getLsbD_and, exec_of_writeR_bits rfl fun _ => BitVec.getLsbD_xor⟩⟩

/-- Settles O32: the 8-bit sum is the sum mod 256, and the flag is its carry. -/
theorem addSetsCarry : Obligations.AddSetsCarry := fun x y =>
  ⟨encodesAs_encode (i := .addReg x y) rfl, fun _ =>
    exec_of_writeRF rfl (BitVec.toNat_add _ _) (carryFlag_toNat _ _)⟩

/-- Settles O33: the 8-bit difference wraps exactly when the flag is 0. -/
theorem subSetsNoBorrow : Obligations.SubSetsNoBorrow := fun x y =>
  ⟨encodesAs_encode (i := .sub x y) rfl, fun _ =>
    exec_of_writeRF rfl (byte_sub_toNat _ _) (noBorrowFlag_toNat _ _)⟩

/-- Settles O34: the quotient and the remainder of the source by 2. -/
theorem shrDropsBitZero : Obligations.ShrDropsBitZero := by
  refine fun x y => ⟨encodesAs_encode (i := .shr x y) rfl, fun s => ?_⟩
  rw [← State.shiftSource_toNat]
  exact exec_of_writeRF rfl (byte_shiftRight_one_toNat _) (lowBitFlag_toNat _)

/-- Settles O35: as `SUB`, with the operands exchanged. -/
theorem subnSetsNoBorrow : Obligations.SubnSetsNoBorrow := fun x y =>
  ⟨encodesAs_encode (i := .subn x y) rfl, fun _ =>
    exec_of_writeRF rfl (byte_sub_toNat _ _) (noBorrowFlag_toNat _ _)⟩

/-- Settles O36: the double of the source mod 256, and the bit it drops. -/
theorem shlDropsBitSeven : Obligations.ShlDropsBitSeven := by
  refine fun x y => ⟨encodesAs_encode (i := .shl x y) rfl, fun s => ?_⟩
  rw [← State.shiftSource_toNat]
  exact exec_of_writeRF rfl (byte_shiftLeft_one_toNat _) (highBitFlag_toNat _)

end Sys2Proof.Machine
end

section
/-! The index and random instructions (spec/44_index_random.md): `LD I,addr` and `ADD I,Vx` write I alone, `RND` writes
Vx and consumes a draw, and each advances PC. -/

namespace Sys2Proof.Machine

theorem zextByte_toNat (b : Byte) : (zextByte b).toNat = b.toNat :=
  BitVec.toNat_setWidth_of_le (by decide)

/-- Settles O38: I receives the address, or the 16-bit sum, which is the sum mod 2^16; the footprint holds I alone. -/
theorem indexWrites : Obligations.IndexWrites := by
  refine ⟨fun nnn => ⟨encodesAs_encode (i := .ldI nnn) rfl, fun s => ?_⟩,
    fun x => ⟨encodesAs_encode (i := .addI x) rfl, fun s => ?_⟩⟩
  · exact ⟨(s.setI (zextAddr nnn)).advance, rfl, zextAddr_toNat nnn, rfl, exec_covers (i := .ldI nnn) rfl⟩
  · have hsum : (s.ireg + zextByte (s.getV x)).toNat = (s.ireg.toNat + (s.getV x).toNat) % 65536 := by
      rw [BitVec.toNat_add, zextByte_toNat]
    exact ⟨(s.setI (s.ireg + zextByte (s.getV x))).advance, rfl, hsum, rfl, exec_covers (i := .addI x) rfl⟩

/-- Settles O39: Vx receives the byte the `RAND` port gives at the draw counter of `s`, under the mask, and the counter
goes one up whatever the mask. -/
theorem rndMasksOneFreshDraw : Obligations.RndMasksOneFreshDraw := fun x nn =>
  ⟨encodesAs_encode (i := .rnd x nn) rfl, fun s =>
    ⟨(s.consumeDraw.setV x (s.randByte &&& nn)).advance, rfl, State.getV_setV_same s.consumeDraw x _, rfl, rfl,
      exec_covers (i := .rnd x nn) rfl⟩⟩

end Sys2Proof.Machine
end

section
/-! DRW (spec/45_draw_framebuffer.md R195, R196): with every sprite byte in memory it blits the bytes at I and presents
the result, and otherwise it raises `MemoryBounds`. -/

namespace Sys2Proof.Machine

variable {s : State} {x y : RegIdx} {n : Nibble}

/-- A range check that reaches past the end of memory raises `MemoryBounds` of the lowest bad address (R65, R69). -/
theorem State.withRange_of_not_fits {a k : Nat} {go : Host.Outcome State Fault Refusal} (h0 : k ≠ 0)
    (h : memSize < a + k) : s.withRange a k go = .fault (.memoryBounds s.pc (max a memSize)) := by
  rcases State.withRange_cases a s k go with ⟨hfit, -⟩ | ⟨-, hfault⟩
  · omega
  · exact hfault

/-- `Memory.readBytes` from I up gives the rows a sprite of `n` rows has. -/
theorem spriteRows_readBytes (s : State) (n : Nat) : SpriteRows s n (Memory.readBytes s.mem s.ireg.toNat n) :=
  ⟨Memory.readBytes_length s.mem s.ireg.toNat n, fun r hr => Memory.readBytes_getD s.mem s.ireg.toNat n r hr⟩

/-- The state after a `DRW` that completes. -/
def State.drawn (s : State) (x y : RegIdx) (n : Nibble) : State :=
  (((s.setFb (s.blit x y n).1).setV vf (flagByte (s.blit x y n).2)).emit [.present (s.blit x y n).1]).advance

/-- `DRW` with every sprite byte in memory (R195). -/
theorem exec_drw_of_fits (h : n.toNat = 0 ∨ s.ireg.toNat + n.toNat ≤ memSize) :
    exec (.drw x y n) s = .next (s.drawn x y n) :=
  State.withRange_of_fits s.ireg.toNat s n.toNat _ h

/-- `DRW` with a sprite byte past the end of memory (R196). -/
theorem exec_drw_of_not_fits (h0 : n.toNat ≠ 0) (h : memSize < s.ireg.toNat + n.toNat) :
    exec (.drw x y n) s = .fault (.memoryBounds s.pc (max s.ireg.toNat memSize)) :=
  State.withRange_of_not_fits h0 h

/-- Settles O43: by whether the sprite bytes exist; the rows are the bytes read from I, and VF is the last register
written. -/
theorem drwDrawsTheSpriteAtI : Obligations.DrwDrawsTheSpriteAtI := by
  refine fun x y n => ⟨encodesAs_encode (i := .drw x y n) rfl, fun s => ⟨fun hfit => ?_, exec_drw_of_not_fits⟩⟩
  have hexec : exec (.drw x y n) s = .next (s.drawn x y n) := exec_drw_of_fits hfit
  have hvf : (s.drawn x y n).getV vf = flagByte (s.blit x y n).2 :=
    State.getV_setV_same (s.setFb (s.blit x y n).1) vf _
  exact ⟨s.drawn x y n, Memory.readBytes s.mem s.ireg.toNat n.toNat, hexec, spriteRows_readBytes s n.toNat, rfl, hvf,
    rfl, rfl, exec_covers hexec⟩

end Sys2Proof.Machine
end

section
/-! The key instructions (spec/46_key.md): `SKP` and `SKNP` skip on whether the held key is Vx, and `LD Vx,K` has one
outcome for each `KEY_WAIT` and key slot. -/

namespace Sys2Proof.Machine

variable {s : State} {x : RegIdx} {k : Nibble}

/-- No key matches exactly when the key that is held, if any, has another code than the whole of Vx (R221). -/
theorem State.keyMatches_eq_false_iff (s : State) (x : RegIdx) :
    s.keyMatches x = false ↔ ∀ k, s.keySlot = some k → k.toNat ≠ (s.getV x).toNat := by
  rw [← Bool.not_eq_true, State.keyMatches_iff]
  simp only [not_exists, not_and, ne_eq]

/-- Settles O44: both are a skip on one condition, whether the key matches, which `SKNP` negates. -/
theorem keySkips : Obligations.KeySkips := by
  refine fun x => ⟨encodesAs_encode (i := .skp x) rfl, encodesAs_encode (i := .sknp x) rfl, fun s =>
    ⟨s.skipIf (s.keyMatches x), s.skipIf (!s.keyMatches x), rfl, rfl, fun hheld => ?_, fun hother => ?_,
      exec_covers (i := .skp x) rfl, exec_covers (i := .sknp x) rfl⟩⟩
  · rw [(s.keyMatches_iff x).mpr hheld]
    exact ⟨rfl, rfl⟩
  · rw [(s.keyMatches_eq_false_iff x).mpr hother]
    exact ⟨rfl, rfl⟩

/-! ### The outcomes of `LD Vx,K` (R223) -/

theorem exec_ldVxK_of_nop (hwait : s.cfg.keyWait = .nop) : exec (.ldVxK x) s = .next s.advance := by
  simp only [exec, execLdVxK, hwait]

theorem exec_ldVxK_of_block_none (hwait : s.cfg.keyWait = .block) (hkey : s.keySlot = none) :
    exec (.ldVxK x) s = .next s := by
  simp only [exec, execLdVxK, hwait, hkey, State.stay]

theorem exec_ldVxK_of_block_some (hwait : s.cfg.keyWait = .block) (hkey : s.keySlot = some k) :
    exec (.ldVxK x) s = .next (s.setV x (zextKey k)).advance := by
  simp only [exec, execLdVxK, hwait, hkey]

theorem zextKey_toNat (k : Nibble) : (zextKey k).toNat = k.toNat :=
  BitVec.toNat_setWidth_of_le (by decide)

/-- Settles O45: by `KEY_WAIT`, and under `BLOCK` by the key slot. -/
theorem waitForKey : Obligations.WaitForKey := by
  refine fun x => ⟨encodesAs_encode (i := .ldVxK x) rfl, fun s => ?_⟩
  cases hwait : s.cfg.keyWait with
  | nop => exact ⟨s.advance, exec_ldVxK_of_nop hwait, fun _ => ⟨rfl, Footprint.covers_refl _ s⟩, nofun, nofun⟩
  | block =>
    cases hkey : s.keySlot with
    | none => exact ⟨s, exec_ldVxK_of_block_none hwait hkey, nofun, fun _ _ => rfl, nofun⟩
    | some held =>
      refine ⟨_, exec_ldVxK_of_block_some hwait hkey, nofun, nofun, ?_⟩
      rintro k - ⟨⟩
      have hcode : ((s.setV x (zextKey held)).getV x).toNat = held.toNat := by
        rw [State.getV_setV_same, zextKey_toNat]
      exact ⟨hcode, rfl, (Footprint.covers_refl _ s).setV (List.mem_singleton_self x) _⟩

end Sys2Proof.Machine
end

section
/-! The pressed key is carried along and read by the key instructions alone (spec/10_state.md R33, R37): every other
instruction commutes with `KEY_IN`. -/

namespace Sys2Proof.Machine

variable (s : State) (k : Option Nibble)

theorem State.skipIf_keyPressed (c : Bool) : (s.keyPressed k).skipIf c = (s.skipIf c).keyPressed k := by
  cases c <;> rfl

theorem State.writeRF_keyPressed (x : RegIdx) (r f : Byte) :
    (s.keyPressed k).writeRF x r f = (s.writeRF x r f).keyPressed k :=
  (apply_ite (State.keyPressed · k) (s.cfg.flagLast = true) ((s.setV x r).setV vf f) ((s.setV vf f).setV x r)).symm

/-- The range check reads no key, so it commutes when what follows it does. -/
theorem State.withRange_keyPressed (a n : Nat) {o o' : Host.Outcome State Fault Refusal} (ho : o' = withKey k o) :
    (s.keyPressed k).withRange a n o' = withKey k (s.withRange a n o) := by
  subst ho
  unfold State.withRange
  cases checkRange a n <;> rfl

/-- An instruction other than the three key instructions reads no key. -/
theorem exec_keyPressed {i : Instr} (hskp : ∀ x, i ≠ .skp x) (hsknp : ∀ x, i ≠ .sknp x) (hwait : ∀ x, i ≠ .ldVxK x) :
    exec i (s.keyPressed k) = withKey k (exec i s) := by
  cases i
  case skp x => exact absurd rfl (hskp x)
  case sknp x => exact absurd rfl (hsknp x)
  case ldVxK x => exact absurd rfl (hwait x)
  case seByte | sneByte | seReg | sneReg => exact congrArg Host.Outcome.next (s.skipIf_keyPressed k _)
  case addReg | sub | shr | subn | shl =>
    exact congrArg (fun t => Host.Outcome.next t.advance) (s.writeRF_keyPressed k _ _ _)
  case ret => simp only [exec, execRet, apply_ite (withKey k)]; rfl
  case call => simp only [exec, execCall, apply_ite (withKey k)]; rfl
  case ldF => simp only [exec, execLdF, apply_ite (withKey k)]; rfl
  case drw | ldB | stBlock | ldBlock => exact s.withRange_keyPressed k _ _ rfl
  all_goals rfl

/-- Settles O58: an instruction that is none of the three commutes with `KEY_IN`. -/
theorem keyIsSeenOnlyByKeyInstructions : Obligations.KeyIsSeenOnlyByKeyInstructions :=
  fun _ s k => exec_keyPressed s k

end Sys2Proof.Machine
end

section
/-! Timer moves, the tick, glyph lookup, BCD and block transfer (spec/47_timers_memory.md). -/

namespace Sys2Proof.Machine

variable {s t u : State} {i : Instr} {x : RegIdx}

/-! ### The timers -/

/-- Settles O46: execute copies DT into Vx, and the tick after it writes DT and not Vx. -/
theorem ldVxDtReadsBeforeTheTick : Obligations.LdVxDtReadsBeforeTheTick := by
  refine fun x => ⟨encodesAs_encode (i := .ldVxDt x) rfl, fun s => ?_⟩
  have hread : (s.setV x s.dt).getV x = s.dt := State.getV_setV_same s x s.dt
  exact ⟨(s.setV x s.dt).advance, rfl, hread, rfl, exec_covers (i := .ldVxDt x) rfl, hread, tickCounter_toNat s.dt⟩

/-- Settles O47: each writes the whole Vx to its counter and advances; the footprint holds that counter alone. -/
theorem timerWrites : Obligations.TimerWrites := fun x =>
  ⟨encodesAs_encode (i := .ldDtVx x) rfl, encodesAs_encode (i := .ldStVx x) rfl, fun s =>
    ⟨⟨(s.setDT (s.getV x)).advance, rfl, rfl, rfl, exec_covers (i := .ldDtVx x) rfl⟩,
     ⟨(s.setST (s.getV x)).advance, rfl, rfl, rfl, exec_covers (i := .ldStVx x) rfl⟩⟩⟩

/-- Execute writes DT for `LD DT,Vx` alone. -/
theorem exec_dt_of_ne (hi : ∀ x, i ≠ .ldDtVx x) (h : exec i s = .next t) : t.dt = s.dt := by
  obtain ⟨-, -, -, -, -, hdelay, -⟩ := exec_covers h
  cases i
  case ldDtVx x => exact absurd rfl (hi x)
  all_goals exact hdelay rfl

/-- Execute writes ST for `LD ST,Vx` alone. -/
theorem exec_st_of_ne (hi : ∀ x, i ≠ .ldStVx x) (h : exec i s = .next t) : t.st = s.st := by
  obtain ⟨-, -, -, -, -, -, hsound, -⟩ := exec_covers h
  cases i
  case ldStVx x => exact absurd rfl (hi x)
  all_goals exact hsound rfl

/-- A `runCycle` that answers `Faulted` is a step that faults, and all it does is latch the fault (R90). -/
theorem State.runCycle_faulted {f : Fault} (h : s.runCycle.2 = .faulted f) :
    step s = .fault f ∧ s.runCycle.1 = s.latchFault f := by
  unfold State.runCycle at h ⊢
  cases hcycle : s.cycle <;> rw [hcycle] at h <;> cases h
  exact ⟨hcycle, rfl⟩

/-- Settles O49: a completed step is execute and one tick, and latching a fault writes no counter. -/
theorem everyCompletedCycleTicksOnce : Obligations.EveryCompletedCycleTicksOnce := by
  refine ⟨fun s t i u hd hexec hstep => ?_, fun s f h => ?_⟩
  · obtain ⟨u', hexec', rfl⟩ := step_next_of_decodeAtPC hd hstep
    cases hexec.symm.trans hexec'
    have hdt : u.tick.dt.toNat = u.dt.toNat - 1 := tickCounter_toNat u.dt
    have hst : u.tick.st.toNat = u.st.toNat - 1 := tickCounter_toNat u.st
    exact ⟨hdt, hst, fun hi => by rw [hdt, exec_dt_of_ne hi hexec], fun hi => by rw [hst, exec_st_of_ne hi hexec]⟩
  · rw [(State.runCycle_faulted h).2]
    exact ⟨rfl, rfl⟩

/-! ### Glyph lookup -/

/-- Settles O50: by the range check on Vx; the largest glyph address is 75, so the 16-bit product does not wrap. -/
theorem ldFPointsAtTheGlyph : Obligations.LdFPointsAtTheGlyph := by
  refine fun x => ⟨encodesAs_encode (i := .ldF x) rfl, fun s => ⟨fun hge => if_pos hge, fun hlt => ?_⟩⟩
  have hexec : exec (.ldF x) s = .next (s.setI (BitVec.ofNat 16 (5 * (s.getV x).toNat))).advance :=
    if_neg (Nat.not_le.mpr hlt)
  have haddr : (BitVec.ofNat 16 (5 * (s.getV x).toNat)).toNat = 5 * (s.getV x).toNat := by
    rw [BitVec.toNat_ofNat, Nat.mod_eq_of_lt (by omega)]
  exact ⟨_, hexec, haddr, rfl, exec_covers hexec⟩

/-! ### BCD and block transfer -/

/-- A byte of a run just stored. -/
theorem Memory.read_writeBytes_add (m : Memory) (a k : Nat) (bs : List Byte) (hk : k < bs.length) :
    (Memory.writeBytes m a bs).read (a + k) = bs.getD k 0 := by
  rw [Memory.read_writeBytes, if_pos (by omega), Nat.add_sub_cancel_left]

theorem hundreds_toNat (v : Byte) : (hundreds v).toNat = v.toNat / 100 := by
  have hv := v.isLt
  rw [hundreds, BitVec.toNat_ofNat, Nat.mod_eq_of_lt (by omega)]

theorem tens_toNat (v : Byte) : (tens v).toNat = v.toNat / 10 % 10 := by
  rw [tens, BitVec.toNat_ofNat, Nat.mod_eq_of_lt (by omega)]

theorem units_toNat (v : Byte) : (units v).toNat = v.toNat % 10 := by
  rw [units, BitVec.toNat_ofNat, Nat.mod_eq_of_lt (by omega)]

/-- Settles O51: with the three addresses in memory the digits are stored there, each as the number it is. -/
theorem ldBStoresThreeDigits : Obligations.LdBStoresThreeDigits := by
  refine fun x => ⟨encodesAs_encode (i := .ldB x) rfl, fun s => ⟨fun hfit => ?_, fun hout =>
    State.withRange_of_not_fits (by decide) (Nat.lt_succ_of_le hout)⟩⟩
  have hexec : exec (.ldB x) s = .next (s.setMem (Memory.writeBytes s.mem s.ireg.toNat
      [hundreds (s.getV x), tens (s.getV x), units (s.getV x)])).advance :=
    State.withRange_of_fits s.ireg.toNat s 3 _ (.inr hfit)
  have hstored := Memory.read_writeBytes_add s.mem s.ireg.toNat
  refine ⟨_, hexec, ?_, ?_, ?_, rfl, exec_covers hexec⟩
  · exact (congrArg BitVec.toNat (hstored 0 _ (by simp))).trans (hundreds_toNat _)
  · exact (congrArg BitVec.toNat (hstored 1 _ (by simp))).trans (tens_toNat _)
  · exact (congrArg BitVec.toNat (hstored 2 _ (by simp))).trans (units_toNat _)

/-- I advances by X + 1, mod 2^16 (R235, R236). -/
theorem State.advancedI_toNat (s : State) (x : RegIdx) :
    (s.advancedI x).toNat = (s.ireg.toNat + x.val + 1) % 65536 := by
  rw [State.advancedI, blockLength, BitVec.toNat_add, BitVec.toNat_ofNat, Nat.add_mod_mod, Nat.add_assoc]

/-- Settles O52: with the range in memory, byte k of the run stored from I up is Vk. -/
theorem blockStore : Obligations.BlockStore := by
  refine fun x => ⟨encodesAs_encode (i := .stBlock x) rfl, fun s => ⟨fun hfit => ?_, fun hout =>
    State.withRange_of_not_fits (Nat.succ_ne_zero _) (Nat.lt_succ_of_le hout)⟩⟩
  have hexec : exec (.stBlock x) s = .next ((s.setMem (Memory.writeBytes s.mem s.ireg.toNat
      (s.regsUpTo (blockLength x)))).setI (s.advancedI x)).advance :=
    State.withRange_of_fits s.ireg.toNat s (blockLength x) _ (.inr hfit)
  refine ⟨_, hexec, fun k hk => ?_, s.advancedI_toNat x, rfl, exec_covers hexec⟩
  have hin : k.val < blockLength x := Nat.lt_succ_of_le hk
  show (Memory.writeBytes s.mem s.ireg.toNat (s.regsUpTo (blockLength x))).read (s.ireg.toNat + k.val) = s.getV k
  rw [Memory.read_writeBytes_add _ _ _ _ (by rwa [State.regsUpTo_length s _ (blockLength_le x)]),
    State.regsUpTo_getD s _ _ hin k.isLt]

/-- Settles O53: with the range in memory, Vk up to Vx is byte k of the run read from I up. -/
theorem blockLoad : Obligations.BlockLoad := by
  refine fun x => ⟨encodesAs_encode (i := .ldBlock x) rfl, fun s => ⟨fun hfit => ?_, fun hout =>
    State.withRange_of_not_fits (Nat.succ_ne_zero _) (Nat.lt_succ_of_le hout)⟩⟩
  have hexec : exec (.ldBlock x) s = .next ((s.loadRegs (Memory.readBytes s.mem s.ireg.toNat
      (blockLength x))).setI (s.advancedI x)).advance :=
    State.withRange_of_fits s.ireg.toNat s (blockLength x) _ (.inr hfit)
  have hreg (k : RegIdx) : (s.loadRegs (Memory.readBytes s.mem s.ireg.toNat (blockLength x))).getV k =
      if k ≤ x then s.mem.read (s.ireg.toNat + k.val) else s.getV k := by
    rw [State.getV_loadRegs, Memory.readBytes_length]
    by_cases hk : k ≤ x
    · have hin : k.val < blockLength x := Nat.lt_succ_of_le hk
      rw [if_pos hin, if_pos hk, Memory.readBytes_getD _ _ _ _ hin]
    · have hout : ¬k.val < blockLength x := fun hin => hk (Nat.le_of_lt_succ hin)
      rw [if_neg hout, if_neg hk]
  exact ⟨_, hexec, fun k hk => (hreg k).trans (if_pos hk), fun k hk => (hreg k).trans (if_neg (Nat.not_le.mpr hk)),
    s.advancedI_toNat x, rfl, exec_covers hexec⟩

end Sys2Proof.Machine
end

section
/-! Faults (spec/60_exceptions.md): an instruction faults exactly on its own check, a faulting cycle commits nothing but
the latch, a faulted machine stays as it is, and the frame of all 35 instructions as a statement. -/

namespace Sys2Proof.Machine

variable {s t u : State} {i : Instr} {f : Fault}

/-- Settles O54: the frame of each state update, along each instruction. -/
theorem everyInstructionKeepsItsFrame : Obligations.EveryInstructionKeepsItsFrame :=
  fun _ _ _ h => exec_covers h

/-! ### An instruction's own check -/

/-- A check that raises one fault and otherwise finds nothing. -/
theorem ite_some_none_eq_some_iff {c : Prop} [Decidable c] {g : Fault} :
    (if c then some g else none) = some f ↔ c ∧ g = f := by
  rw [Option.ite_none_right_eq_some, Option.some_inj]

/-- A range check faults exactly as `boundsFault` says. -/
theorem State.withRange_eq_fault_iff {a k : Nat} : s.withRange a k (.next u) = .fault f ↔ boundsFault s a k = some f := by
  rw [boundsFault, ite_some_none_eq_some_iff]
  rcases State.withRange_cases a s k (.next u) with ⟨hfit, e⟩ | ⟨hout, e⟩ <;> rw [e]
  · exact iff_of_false nofun fun ⟨⟨hne, hgt⟩, _⟩ => hfit.elim hne (Nat.not_le.mpr hgt)
  · exact ⟨fun h => ⟨hout, Host.Outcome.fault.inj h⟩, fun h => congrArg _ h.2⟩

/-- An instruction whose check comes first faults exactly on it when nothing after it faults. -/
theorem ite_fault_eq_fault_iff {c : Prop} [Decidable c] {g : Fault} {o : Host.Outcome State Fault Refusal}
    (ho : o ≠ .fault f) : (if c then .fault g else o) = .fault f ↔ c ∧ g = f := by
  split
  case isTrue hc => rw [Host.Outcome.fault.injEq, and_iff_right hc]
  case isFalse hc => exact iff_of_false ho fun h => hc h.1

theorem execRet_eq_fault_iff : execRet s = .fault f ↔ s.sp.toNat = 0 ∧ .stackUnderflow s.pc = f :=
  (ite_fault_eq_fault_iff (by split <;> nofun)).trans (and_congr_left' BitVec.toNat_inj.symm)

theorem execCall_eq_fault_iff {nnn : Addr12} :
    execCall nnn s = .fault f ↔ s.sp.toNat = s.cfg.stackDepth.toNat ∧ .stackOverflow s.pc = f :=
  ite_fault_eq_fault_iff (by split <;> nofun)

theorem execLdF_eq_fault_iff {x : RegIdx} :
    execLdF x s = .fault f ↔ (s.getV x).toNat ≥ 16 ∧ .rangeError s.pc (s.getV x) = f :=
  ite_fault_eq_fault_iff nofun

theorem execLdVxK_ne_fault {x : RegIdx} : execLdVxK x s ≠ .fault f := by
  unfold execLdVxK
  split
  · nofun
  · split <;> nofun

/-- Execute faults exactly on the instruction's own check, in every state (R250, R253). -/
theorem exec_eq_fault_iff : exec i s = .fault f ↔ ownFault i s = some f := by
  cases i
  case ret => exact execRet_eq_fault_iff.trans ite_some_none_eq_some_iff.symm
  case call => exact execCall_eq_fault_iff.trans ite_some_none_eq_some_iff.symm
  case ldF => exact execLdF_eq_fault_iff.trans ite_some_none_eq_some_iff.symm
  case drw | ldB | stBlock | ldBlock => exact State.withRange_eq_fault_iff
  case ldVxK => exact iff_of_false execLdVxK_ne_fault nofun
  all_goals exact iff_of_false nofun nofun

/-- Settles O12: a fault is the own check's, and a refusal needs SP above `STACK_DEPTH`. -/
theorem instructionsFaultExactlyOnTheirOwnCheck : Obligations.InstructionsFaultExactlyOnTheirOwnCheck := by
  intro i s hsp
  cases hown : ownFault i s with
  | some f => exact exec_eq_fault_iff.mpr hown
  | none =>
    show ∃ t, exec i s = .next t
    cases hexec : exec i s with
    | next t => exact ⟨t, rfl⟩
    | fault f => cases hown.symm.trans (exec_eq_fault_iff.mp hexec)
    | refused r => exact absurd (sp_out_of_range_of_exec_refused hexec) (Nat.not_lt.mpr hsp)

/-! ### What a faulting cycle leaves -/

theorem boundsFault_recordedPC {a k : Nat} (h : boundsFault s a k = some f) : f.recordedPC = some s.pc := by
  obtain ⟨-, rfl⟩ := ite_some_none_eq_some_iff.mp h
  rfl

theorem ownFault_recordedPC (h : ownFault i s = some f) : f.recordedPC = some s.pc := by
  cases i
  case ret | call | ldF => obtain ⟨-, rfl⟩ := ite_some_none_eq_some_iff.mp h; rfl
  case drw | ldB | stBlock | ldBlock => exact boundsFault_recordedPC h
  all_goals cases h

theorem State.fetch_error_recordedPC (h : s.fetch = .error f) : f.recordedPC = some s.pc := by
  rw [State.fetch_eq] at h
  split at h <;> cases h
  rfl

/-- Whatever a step of an unfaulted machine faults on, the fault records PC (R252). -/
theorem step_fault_recordedPC (hnone : s.fault = none) (h : step s = .fault f) : f.recordedPC = some s.pc := by
  rcases step_fault_cases h with hlatched | ⟨-, hfetch⟩ | ⟨w, r, -, -, -, rfl⟩ | ⟨w, i, -, -, -, hexec⟩
  · cases hnone.symm.trans hlatched
  · exact State.fetch_error_recordedPC hfetch
  · rfl
  · exact ownFault_recordedPC (exec_eq_fault_iff.mp hexec)

/-- Settles O11: `runCycle` only latches the fault, which records PC. -/
theorem faultingCycleCommitsNothing : Obligations.FaultingCycleCommitsNothing := by
  intro s f hnone h
  obtain ⟨hstep, hafter⟩ := State.runCycle_faulted h
  exact ⟨hafter, step_fault_recordedPC hnone hstep⟩

/-! ### A faulted machine -/

theorem State.latchFault_self (h : s.fault = some f) : s.latchFault f = s := by
  rw [State.latchFault, ← h]

/-- A cycle of a faulted machine answers its fault again and changes nothing (R251). -/
theorem State.runCycle_of_fault (h : s.fault = some f) : s.runCycle = (s, .faulted f) := by
  have hcycle : s.cycle = .fault f := by simp only [State.cycle, h]
  simp only [State.runCycle, hcycle, State.latchFault_self h]

/-- The host moves nothing in a faulted machine but its key slot. -/
theorem State.hostRun_of_fault (h : s.fault = some f) (moves : List HostMove) :
    ∃ k, s.hostRun moves = s.keyPressed k := by
  induction moves generalizing s with
  | nil => exact ⟨s.keySlot, rfl⟩
  | cons m rest ih =>
    cases m with
    | keyIn k => exact ih (s := s.keyPressed k) h
    | step =>
      rw [State.hostRun, State.hostMove, State.runCycle_of_fault h]
      exact ih h

/-- LOAD accepts an image that fits, and then writes memory and PC alone (spec/70_reset_and_hazards.md R281). -/
theorem State.load_next {image : List Byte} (h : s.load image = .next t) :
    image.length ≤ maxImage ∧
      t = (s.setMem (Memory.writeBytes s.mem progBase image)).jump (BitVec.ofNat 16 progBase) := by
  unfold State.load raise at h
  split at h <;> cases h
  exact ⟨Nat.not_lt.mp ‹_›, rfl⟩

/-- Settles O10: a faulting cycle latches its fault; from there STEP repeats it, KEY_IN writes the key slot alone, and
LOAD writes memory and PC alone. -/
theorem faultedMachineIsAbsorbing : Obligations.FaultedMachineIsAbsorbing := by
  refine ⟨fun s f h => by rw [(State.runCycle_faulted h).2, State.latchFault_fault],
    fun s f h => ⟨fun moves => ?_, fun image t hload => ?_⟩⟩
  · obtain ⟨k, hrun⟩ := State.hostRun_of_fault h moves
    rw [hrun]
    exact ⟨k, rfl, State.runCycle_of_fault h⟩
  · obtain ⟨-, rfl⟩ := State.load_next hload
    exact h

end Sys2Proof.Machine
end

section
/-! Construction, LOAD and runs (spec/70_reset_and_hazards.md R280, R281, R286). -/

namespace Sys2Proof.Machine

variable {s t : State} {f : Fault} {image : List Byte}

/-! ### LOAD -/

theorem State.load_of_too_long (h : maxImage < image.length) : s.load image = .fault (.loadError image.length) :=
  if_pos h

theorem State.load_of_fits (h : image.length ≤ maxImage) :
    s.load image = .next ((s.setMem (Memory.writeBytes s.mem progBase image)).jump (BitVec.ofNat 16 progBase)) :=
  if_neg (Nat.not_lt.mpr h)

/-- A word of two zero bytes is `SYS 0x000` (spec/30_encoding.md R85). -/
theorem decodeAtPC_of_zero_bytes (hhi : s.mem.read s.pc.toNat = 0) (hlo : s.mem.read (s.pc.toNat + 1) = 0) :
    decodeAtPC s = (.instr (.sys 0), []) := by
  rw [decodeAtPC, hhi, hlo]
  exact congrArg (·, []) (decodeWord_encode s.cfg.strict59 (i := .sys 0) rfl)

/-- Settles O20: by the length of the image; the empty image leaves memory, so the zero word at 0x200 runs as `SYS`. -/
theorem loadPlacesTheImage : Obligations.LoadPlacesTheImage := by
  refine ⟨fun s image => ⟨State.load_of_too_long, fun hfit => ?_⟩, fun s hnone hhi hlo => ?_⟩
  · exact ⟨_, State.load_of_fits hfit, rfl, fun k hk => Memory.read_writeBytes_add s.mem progBase k image hk,
      ((Footprint.covers_refl _ s).store rfl).jump _⟩
  · have hdecode : decodeAtPC (s.jump 0x200) = (.instr (.sys 0), []) := decodeAtPC_of_zero_bytes hhi hlo
    have hroom : (0x200 : Word).toNat + 1 < memSize := by decide
    exact ⟨s.jump 0x200, (s.jump 0x200).advance.tick, State.load_of_fits (Nat.zero_le _), rfl, hdecode,
      step_next_of_exec (i := .sys 0) hnone hroom hdecode rfl, rfl⟩

/-! ### Runs -/

/-- LOAD into a machine as constructed establishes the invariant, whatever PC was drawn. -/
theorem construct_load_inv {cfg : Config} {draw : ConstructionDraw} (h : (State.construct cfg draw).load image = .next s) :
    s.Inv := by
  obtain ⟨hfit, rfl⟩ := State.load_next h
  have hwf : (Memory.writeBytes (State.construct cfg draw).mem progBase image).wf :=
    Memory.wf_writeBytes _ _ _ (constructedMemory_wf _ _) (Nat.add_le_of_le_sub' (by decide) hfit)
  exact ⟨hwf, Nat.zero_le _, by simp [progBase], fun k hk => absurd hk (Nat.not_lt_zero k), nofun⟩

/-- A fault that records a PC is no load-time result (R264). -/
theorem isCycleFault_of_recordedPC {w : Word} (h : f.recordedPC = some w) : f.isCycleFault = true := by
  cases f
  case loadError => cases h
  all_goals rfl

theorem State.inv_latchFault (h : s.Inv) (hf : f.isCycleFault = true) : (s.latchFault f).Inv := by
  obtain ⟨hwf, hsp, hpc, hentry, -⟩ := h
  exact ⟨hwf, hsp, hpc, hentry, fun _ hg => Option.some.inj hg ▸ hf⟩

theorem step_fault_isCycleFault (h : s.Inv) (hstep : step s = .fault f) : f.isCycleFault = true := by
  obtain ⟨-, -, -, -, hlatched⟩ := h
  cases hfault : s.fault with
  | none => exact isCycleFault_of_recordedPC (step_fault_recordedPC hfault hstep)
  | some g =>
    rcases step_fault_cases hstep with hsame | ⟨hnone, -⟩ | ⟨w, r, hnone, -⟩ | ⟨w, i, hnone, -⟩
    · exact hlatched f hsame
    all_goals cases hfault.symm.trans hnone

theorem State.inv_runCycle (h : s.Inv) : s.runCycle.1.Inv := by
  rw [State.runCycle_fst]
  cases hcycle : s.cycle with
  | next t => exact stepKeepsInvariant s t h hcycle
  | fault f => exact State.inv_latchFault h (step_fault_isCycleFault h hcycle)
  | refused r => exact h

/-- Every move of the host keeps the invariant, so every run does. -/
theorem State.inv_hostRun (h : s.Inv) (moves : List HostMove) : (s.hostRun moves).Inv := by
  induction moves generalizing s with
  | nil => exact h
  | cons m rest ih =>
    cases m with
    | keyIn k => exact ih (s := s.keyPressed k) h
    | step => exact ih (State.inv_runCycle h)

/-- Settles O16: LOAD establishes the invariant and every move keeps it. -/
theorem everyRunKeepsInvariant : Obligations.EveryRunKeepsInvariant :=
  fun _ _ _ moves _ h => State.inv_hostRun (construct_load_inv h) moves

end Sys2Proof.Machine
end

section
/-! The closed form of a draw (spec/45_draw_framebuffer.md R192, R193, R194, R198): a draw is a run of toggles of the
pixels its 1 bits map to, and these are distinct. -/

namespace Sys2Proof.Machine

variable {x0 y0 : Byte}

/-- Settles O42: eight columns and fifteen rows are fewer than the wrap lengths, 64 and 32. -/
theorem noPixelIsDrawnTwice : Obligations.NoPixelIsDrawnTwice := by
  intro x0 y0 r r' b b' hr hr' hb hb' hcol hrow
  have hcol' : (x0.toNat + b) % 64 = (x0.toNat + b') % 64 := congrArg Fin.val hcol
  have hrow' : (y0.toNat + r) % 32 = (y0.toNat + r') % 32 := congrArg Fin.val hrow
  omega

/-! ### A draw as a run of toggles -/

/-- Toggles one pixel; it collides when the pixel was 1. -/
def toggle (acc : Framebuffer × Bool) (p : Fin 64 × Fin 32) : Framebuffer × Bool :=
  (setPixel acc.1 p.1 p.2 (!pixel acc.1 p.1 p.2), acc.2 || pixel acc.1 p.1 p.2)

/-- The pixels the 1 bits of one sprite row map to, by rising offset. -/
def rowDots (x0 y0 row : Byte) (r : Nat) : List (Fin 64 × Fin 32) :=
  ((List.range 8).filter (spriteBit row)).map fun b => (pixelColumn x0 b, pixelRow y0 r)

/-- The pixels the 1 bits of a sprite map to, its first row at row offset `r`. -/
def dots (x0 y0 : Byte) (r : Nat) : List Byte → List (Fin 64 × Fin 32)
  | [] => []
  | row :: rest => rowDots x0 y0 row r ++ dots x0 y0 (r + 1) rest

/-- Writing a pixel's own value changes nothing. -/
theorem setPixel_pixel (fb : Framebuffer) (x : Fin 64) (y : Fin 32) : setPixel fb x y (pixel fb x y) = fb := by
  refine framebuffer_ext _ _ fun x' y' => ?_
  rw [pixel_setPixel]
  split
  case isTrue hsame => rw [hsame.1, hsame.2]
  case isFalse => rfl

/-- A 1 bit toggles its pixel and a 0 bit changes nothing. -/
theorem drawBit_eq (row : Byte) (r : Nat) (acc : Framebuffer × Bool) (b : Nat) :
    drawBit x0 y0 row r acc b =
      if spriteBit row b = true then toggle acc (pixelColumn x0 b, pixelRow y0 r) else acc := by
  cases hbit : spriteBit row b with
  | false => simp [drawBit, hbit, setPixel_pixel]
  | true => simp [drawBit, hbit, toggle]

theorem drawRow_eq_foldl (row : Byte) (r : Nat) (acc : Framebuffer × Bool) :
    drawRow x0 y0 row r acc = (rowDots x0 y0 row r).foldl toggle acc := by
  rw [drawRow, rowDots, List.foldl_map, List.foldl_filter]
  exact congrArg (fun f => (List.range 8).foldl f acc) (funext₂ (drawBit_eq row r))

theorem drawRows_eq_foldl (r : Nat) (rows : List Byte) (acc : Framebuffer × Bool) :
    drawRows x0 y0 r rows acc = (dots x0 y0 r rows).foldl toggle acc := by
  induction rows generalizing r acc with
  | nil => rfl
  | cons row rest ih => rw [drawRows, dots, List.foldl_append, ih, drawRow_eq_foldl]

/-! ### What a run of toggles of distinct pixels does -/

theorem pixel_toggle (acc : Framebuffer × Bool) (p q : Fin 64 × Fin 32) :
    pixel (toggle acc p).1 q.1 q.2 = if q = p then !pixel acc.1 q.1 q.2 else pixel acc.1 q.1 q.2 := by
  rw [toggle, pixel_setPixel]
  refine if_ctx_congr Prod.ext_iff.symm (fun hq => ?_) fun _ => rfl
  rw [hq]

/-- Each pixel of the run is inverted once. -/
theorem pixel_foldl_toggle {ps : List (Fin 64 × Fin 32)} (hps : ps.Nodup) (acc : Framebuffer × Bool)
    (q : Fin 64 × Fin 32) :
    pixel (ps.foldl toggle acc).1 q.1 q.2 = if q ∈ ps then !pixel acc.1 q.1 q.2 else pixel acc.1 q.1 q.2 := by
  induction ps generalizing acc with
  | nil => rfl
  | cons p rest ih =>
    obtain ⟨hp, hrest⟩ := List.nodup_cons.mp hps
    rw [List.foldl_cons, ih hrest, pixel_toggle]
    by_cases hhead : q = p
    · rw [if_neg (hhead ▸ hp), if_pos hhead, if_pos (hhead ▸ List.mem_cons_self)]
    · rw [if_neg hhead]
      exact if_congr (by rw [List.mem_cons, or_iff_right hhead]) rfl rfl

/-- Each toggle of the run meets its pixel as it was before the run. -/
theorem collided_foldl_toggle {ps : List (Fin 64 × Fin 32)} (hps : ps.Nodup) (acc : Framebuffer × Bool) :
    (ps.foldl toggle acc).2 = true ↔ acc.2 = true ∨ ∃ q ∈ ps, pixel acc.1 q.1 q.2 = true := by
  induction ps generalizing acc with
  | nil => simp
  | cons p rest ih =>
    obtain ⟨hp, hrest⟩ := List.nodup_cons.mp hps
    have hother : ∀ q ∈ rest, pixel (toggle acc p).1 q.1 q.2 = pixel acc.1 q.1 q.2 := fun q hq =>
      (pixel_toggle acc p q).trans (if_neg (ne_of_mem_of_not_mem hq hp))
    have hlater : (∃ q ∈ rest, pixel (toggle acc p).1 q.1 q.2 = true) ↔ ∃ q ∈ rest, pixel acc.1 q.1 q.2 = true :=
      exists_congr fun q => and_congr_right fun hq => by rw [hother q hq]
    have hhead : (toggle acc p).2 = true ↔ acc.2 = true ∨ pixel acc.1 p.1 p.2 = true := Bool.or_eq_true_iff
    rw [List.foldl_cons, ih hrest, hlater, hhead, or_assoc]
    simp only [List.mem_cons, exists_eq_or_imp]

/-! ### The pixels of a sprite -/

theorem mem_rowDots {row : Byte} {r : Nat} {p : Fin 64 × Fin 32} :
    p ∈ rowDots x0 y0 row r ↔ ∃ b, b < 8 ∧ spriteBit row b = true ∧ p = (pixelColumn x0 b, pixelRow y0 r) := by
  simp only [rowDots, List.mem_map, List.mem_filter, List.mem_range, and_assoc, eq_comm (a := p)]

theorem mem_dots {r : Nat} {rows : List Byte} {p : Fin 64 × Fin 32} :
    p ∈ dots x0 y0 r rows ↔ ∃ k, k < rows.length ∧ p ∈ rowDots x0 y0 (rows.getD k 0) (r + k) := by
  induction rows generalizing r with
  | nil => simp [dots]
  | cons row rest ih =>
    rw [dots, List.mem_append, ih, List.length_cons, Nat.exists_lt_succ_left]
    simp only [List.getD_cons_zero, List.getD_cons_succ, Nat.add_zero, Nat.add_assoc, Nat.add_comm 1]

/-- The pixels of a sprite of at most 15 rows are distinct (R194). -/
theorem nodup_dots {r : Nat} {rows : List Byte} (h : r + rows.length ≤ 15) : (dots x0 y0 r rows).Nodup := by
  induction rows generalizing r with
  | nil => exact List.nodup_nil
  | cons row rest ih =>
    rw [List.length_cons] at h
    refine List.nodup_append'.mpr ⟨?_, ih (by omega), List.disjoint_left.mpr fun p hfirst hlater => ?_⟩
    · refine List.Nodup.map_on (fun b hb b' hb' heq => ?_) (List.nodup_range.filter _)
      have hb8 : b < 8 := List.mem_range.mp (List.mem_filter.mp hb).1
      have hb8' : b' < 8 := List.mem_range.mp (List.mem_filter.mp hb').1
      exact (noPixelIsDrawnTwice x0 y0 r r b b' (by omega) (by omega) hb8 hb8' (congrArg Prod.fst heq) rfl).2
    · obtain ⟨b, hb, -, rfl⟩ := mem_rowDots.mp hfirst
      obtain ⟨k, hk, hrow⟩ := mem_dots.mp hlater
      obtain ⟨b', hb', -, heq⟩ := mem_rowDots.mp hrow
      have hsame := noPixelIsDrawnTwice x0 y0 r (r + 1 + k) b b' (by omega) (by omega) hb hb'
        (congrArg Prod.fst heq) (congrArg Prod.snd heq)
      omega

/-- These are the pixels of S(p) in R193. -/
theorem mem_dots_iff_spriteCovers {rows : List Byte} {x : Fin 64} {y : Fin 32} :
    (x, y) ∈ dots x0 y0 0 rows ↔ SpriteCovers x0 y0 rows x y := by
  have hpixel : ∀ k b, (x, y) = (pixelColumn x0 b, pixelRow y0 (0 + k)) ↔
      x.val = (x0.toNat + b) % 64 ∧ y.val = (y0.toNat + k) % 32 := fun k b => by
    rw [Prod.mk_inj, Fin.ext_iff, Fin.ext_iff, Nat.zero_add]; rfl
  rw [mem_dots]
  refine exists_congr fun k => ?_
  simp only [mem_rowDots, hpixel, exists_and_left, spriteBitAt, spriteBit]

/-- Settles O40: the draw is a run of toggles of the distinct pixels its 1 bits map to. -/
theorem drawHasItsClosedForm : Obligations.DrawHasItsClosedForm := by
  intro fb x0 y0 rows hlen
  have hdistinct : (dots x0 y0 0 rows).Nodup := nodup_dots (by omega)
  rw [fbDraw, drawRows_eq_foldl]
  refine ⟨fun x y => ?_, ?_⟩
  · rw [← mem_dots_iff_spriteCovers, pixel_foldl_toggle hdistinct _ (x, y)]
    exact ⟨fun hcov => if_pos hcov, fun hcov => if_neg hcov⟩
  · simp only [collided_foldl_toggle hdistinct, Prod.exists, mem_dots_iff_spriteCovers, Bool.false_eq_true, false_or]

/-- Settles O41: toggling a pixel twice restores it, and under the sprite the second draw meets a 1 where the first met
a 0. -/
theorem drawingTwiceRestores : Obligations.DrawingTwiceRestores := by
  intro fb x0 y0 rows hlen
  obtain ⟨hfirst, -⟩ := drawHasItsClosedForm fb x0 y0 rows hlen
  obtain ⟨hsecond, hcollides⟩ := drawHasItsClosedForm (fbDraw fb x0 y0 rows).1 x0 y0 rows hlen
  refine ⟨framebuffer_ext _ _ fun x y => ?_, hcollides.trans ?_⟩
  · by_cases hcov : SpriteCovers x0 y0 rows x y
    · rw [(hsecond x y).1 hcov, (hfirst x y).1 hcov, Bool.not_not]
    · rw [(hsecond x y).2 hcov, (hfirst x y).2 hcov]
  · refine exists₂_congr fun x y => and_congr_right fun hcov => ?_
    rw [(hfirst x y).1 hcov, Bool.not_eq_true']

end Sys2Proof.Machine
end
